-- ==== Sys2Proof/Word.lean ====
section
/-! DEFINITION. The word types of the block: a register is one byte (R7, R21) and a register number has
seven bits (R60, R91). -/

namespace Sys2Proof

/-- A register's contents, a bus byte, a FIFO byte (R7). -/
abbrev Byte := BitVec 8

/-- A register number, 0 to 127 (R60). -/
abbrev Addr := BitVec 7

end Sys2Proof
end

