-- ==== Sys2Proof/Config.lean ====
section
/-! DEFINITION. The configuration record `Cfg` of R5, its default instance `cfgH0`, the names the spec
enumerates (families, modes, events, agents, interfaces), and the free values: constants with no body. -/

namespace Sys2Proof

/-- The two chip families (R6). -/
inductive Family where
  | h
  | s
  deriving DecidableEq, Repr

/-- The five operating modes (R25). -/
inductive Mode where
  | sleep
  | standby
  | frequencySynth
  | transmit
  | receive
  deriving DecidableEq, Repr

/-- The three events: PayloadReady (PR), PacketSent (PS), Timeout (TO) (R12). -/
inductive Event where
  | pr
  | ps
  | tmo
  deriving DecidableEq, Repr

/-- The four agents (R9). -/
inductive Agent where
  | host
  | isr
  | timer
  | radio
  deriving DecidableEq, Repr

/-- The interface an encoding travels on (R90): Format C words on `command`, Formats B and F on `bus`. -/
inductive Port where
  | command
  | bus
  deriving DecidableEq, Repr

/-- Which of the two status registers (R26). -/
inductive StatusReg where
  | one
  | two
  deriving DecidableEq, Repr

/-- The switch AUTOCLEAR (R252). -/
inductive AutoClear where
  | draw
  | datasheet
  deriving DecidableEq, Repr

/-- A flag's place: status register and bit (R96). -/
structure Loc where
  reg : StatusReg
  bit : Fin 8
  deriving DecidableEq, Repr

/-- MODE_BITS: one pattern per mode (R95). -/
structure ModePatterns where
  sleep : Byte
  standby : Byte
  frequencySynth : Byte
  transmit : Byte
  receive : Byte
  deriving DecidableEq, Repr

/-- The configuration record (R5), with VERSION_VALUE (R31) beside the fields of R5's table. -/
structure Cfg where
  family : Family
  regFifo : Addr
  regOpmode : Addr
  modeMask : Byte
  modePatterns : ModePatterns
  regVersion : Addr
  versionInvalid : Byte
  versionValue : Byte
  regPower : Addr
  regRssi : Addr
  regPinmapA : Addr
  pin0Mask : Byte
  pin0SelPs : Byte
  pin0SelPr : Byte
  regPinmapB : Addr
  pin1Mask : Byte
  pin1SelTo : Byte
  regIrq1 : Addr
  regIrq2 : Addr
  locPr : Loc
  locPs : Loc
  locTo : Loc
  locCrc : Loc
  regRxto1 : Addr
  regRxto2 : Addr
  toOn1 : Byte
  toOn2 : Byte
  pMin : Int
  pMax : Int
  pFallback : Int
  maxPayload : Nat
  rssiInvalid : Byte
  writeFlag : Byte
  resetMode : Mode
  autoClear : AutoClear
  settleMs : Nat
  deriving DecidableEq, Repr

/-- The default instance of R5. VERSION_VALUE is 0x24, the present chip of vectors V3 and V79
(DESIGN CHOICE, log 3). -/
def cfgH0 : Cfg where
  family := .h
  regFifo := 0x00#7
  regOpmode := 0x01#7
  modeMask := 0x1C#8
  modePatterns := ⟨0x00#8, 0x04#8, 0x08#8, 0x0C#8, 0x10#8⟩
  regVersion := 0x10#7
  versionInvalid := 0x00#8
  versionValue := 0x24#8
  regPower := 0x11#7
  regRssi := 0x24#7
  regPinmapA := 0x25#7
  pin0Mask := 0xC0#8
  pin0SelPs := 0x00#8
  pin0SelPr := 0x40#8
  regPinmapB := 0x26#7
  pin1Mask := 0xC0#8
  pin1SelTo := 0x00#8
  regIrq1 := 0x27#7
  regIrq2 := 0x28#7
  locPr := ⟨.two, 2⟩
  locPs := ⟨.two, 3⟩
  locTo := ⟨.one, 2⟩
  locCrc := ⟨.two, 1⟩
  regRxto1 := 0x2A#7
  regRxto2 := 0x2B#7
  toOn1 := 0xFF#8
  toOn2 := 0xFF#8
  pMin := -18
  pMax := 13
  pFallback := 13
  maxPayload := 63
  rssiInvalid := 0xFF#8
  writeFlag := 0x80#8
  resetMode := .standby
  autoClear := .draw
  settleMs := 5

/-- The test instance `CfgS0` of 95_test_vectors.md: `cfgH0` with family S. -/
def cfgS0 : Cfg := { cfgH0 with family := .s }

namespace Config

/-- `draw8()` (R8): the n-th free byte. No body (log 5). -/
opaque freeByte : Nat → Byte

/-- `drawBool()` (R8): the n-th free boolean. No body (log 5). -/
opaque freeBool : Nat → Bool

/-- A free natural number, from which PWRON's output power is drawn (R300, log 20). No body. -/
opaque freeNat : Nat → Nat

/-- A free integer: the power an absent chip answers (R148, U37, log 34). No body. -/
opaque freeInt : Nat → Int

/-- A drawn byte sequence of drawn length: the FIFO after a timeout outcome (R200, log 19). No body. -/
opaque freeBytes : Nat → List Byte

/-- The node-address register's number, in no source (R224, log 21). No body. -/
opaque nodeAddressRegister : Addr

end Config

end Sys2Proof
end

