-- ==== Sys2Proof/Syntax.lean ====
section
/-! DEFINITION. The instruction type: one constructor per row of spec/opcode_table.json. -/

namespace Sys2Proof

/-- The primitives (R100, R101). A Format B row named after a register of `cfgH0` stands for the access to
that NUMBERED register (0x01, 0x10, ...); what the access does follows the configuration (log 15). The byte
`d` of a read and the bytes of FIFORD are the fillers the master sends, which the chip ignores (R91, R122,
log 14). -/
inductive Instr where
  | sel
  | desel
  | xfer (b : Byte)
  | delay
  | pwron
  | setmodeSleep
  | setmodeStandby
  | setmodeFrequencySynth
  | setmodeTransmit
  | setmodeReceive
  | irqsvc
  | sample
  | clear
  | latch
  | clrpr
  | clrps
  | clrto
  | clrfPr
  | clrfPs
  | clrfTo
  | rdfPr
  | rdfPs
  | rdfTo
  | mappr
  | mapps
  | mapto
  | toenOff
  | toenOn
  | forceto
  | pwrfull
  | rdreg (a : Addr) (d : Byte)
  | wrreg (a : Addr) (d : Byte)
  | fifowr (bytes : List Byte)
  | fiford (fill : List Byte)
  | rdregOpmode (d : Byte)
  | wrregOpmode (d : Byte)
  | rdregVersion (d : Byte)
  | wrregVersion (d : Byte)
  | rdregPower (d : Byte)
  | wrregPower (d : Byte)
  | rdregRssi (d : Byte)
  | wrregRssi (d : Byte)
  | rdregPinmapA (d : Byte)
  | wrregPinmapA (d : Byte)
  | rdregPinmapB (d : Byte)
  | wrregPinmapB (d : Byte)
  | rdregIrq1 (d : Byte)
  | wrregIrq1 (d : Byte)
  | rdregIrq2 (d : Byte)
  | wrregIrq2 (d : Byte)
  | rdregRxto1 (d : Byte)
  | wrregRxto1 (d : Byte)
  | rdregRxto2 (d : Byte)
  | wrregRxto2 (d : Byte)
  deriving DecidableEq, Repr

end Sys2Proof
end

