-- ==== Sys2Proof/WellFormed.lean ====
section
/-! DEFINITION. Well-formed configurations (the constraint column of R5) and well-formed instructions
(R101: the generic Format B rows take the registers that have no row of their own; R92: n >= 1). -/

namespace Sys2Proof

/-- The addresses the block decodes; the duration registers belong to family H only (R69). `REG_PINMAP_B`
is left out: R5 lets it equal `REG_PINMAP_A`. -/
def Cfg.decoded (c : Cfg) : List Addr :=
  [c.regFifo, c.regOpmode, c.regVersion, c.regPower, c.regRssi, c.regIrq1, c.regIrq2] ++
    (match c.family with
     | .h => [c.regRxto1, c.regRxto2]
     | .s => [])

/-- The constraints of R5. -/
def Cfg.wf (c : Cfg) : Bool :=
  let p := c.modePatterns
  decide ((c.regPinmapA :: c.decoded).Nodup)
  && decide ((c.regPinmapB :: c.decoded).Nodup)
  && decide (c.regRxto1 ≠ c.regRxto2)
  && (if c.regPinmapA = c.regPinmapB then c.pin0Mask &&& c.pin1Mask == 0#8 else true)
  && decide (c.modeMask ≠ 0#8)
  && [p.sleep, p.standby, p.frequencySynth, p.transmit, p.receive].all (fun x => x &&& c.modeMask == x)
  && decide ([p.sleep, p.standby, p.frequencySynth, p.transmit, p.receive].Nodup)
  && decide (c.pin0Mask ≠ 0#8) && decide (c.pin1Mask ≠ 0#8)
  && (c.pin0SelPs &&& c.pin0Mask == c.pin0SelPs)
  && (c.pin0SelPr &&& c.pin0Mask == c.pin0SelPr)
  && decide (c.pin0SelPs ≠ c.pin0SelPr)
  && (c.pin1SelTo &&& c.pin1Mask == c.pin1SelTo)
  && decide ([c.locPr, c.locPs, c.locTo, c.locCrc].Nodup)
  && decide (c.toOn1 ≠ 0#8) && decide (c.toOn2 ≠ 0#8)
  && decide (c.pMin ≤ c.pMax) && decide (c.pMin ≤ c.pFallback) && decide (c.pFallback ≤ c.pMax)
  && decide (c.maxPayload = 63)
  && (c.rssiInvalid == 255#8)
  && (c.versionInvalid == 0#8)
  && (c.writeFlag == 0x80#8)

/-- The ten registers that have table rows of their own. -/
def rowAddrs : List Addr :=
  [0x01#7, 0x10#7, 0x11#7, 0x24#7, 0x25#7, 0x26#7, 0x27#7, 0x28#7, 0x2A#7, 0x2B#7]

/-- An instruction as R101 and R92 ifAdmitted it under the configuration `c`: no Format B access is at
`REG_FIFO`, a generic one is at a register without a row of its own, and a burst has at least one byte. -/
def Instr.wf (c : Cfg) : Instr → Bool
  | .rdreg a _ | .wrreg a _ => decide (a ≠ c.regFifo) && !rowAddrs.contains a
  | .fifowr bytes => !bytes.isEmpty
  | .fiford fill => !fill.isEmpty
  | .rdregOpmode _ | .wrregOpmode _ => decide (0x01#7 ≠ c.regFifo)
  | .rdregVersion _ | .wrregVersion _ => decide (0x10#7 ≠ c.regFifo)
  | .rdregPower _ | .wrregPower _ => decide (0x11#7 ≠ c.regFifo)
  | .rdregRssi _ | .wrregRssi _ => decide (0x24#7 ≠ c.regFifo)
  | .rdregPinmapA _ | .wrregPinmapA _ => decide (0x25#7 ≠ c.regFifo)
  | .rdregPinmapB _ | .wrregPinmapB _ => decide (0x26#7 ≠ c.regFifo)
  | .rdregIrq1 _ | .wrregIrq1 _ => decide (0x27#7 ≠ c.regFifo)
  | .rdregIrq2 _ | .wrregIrq2 _ => decide (0x28#7 ≠ c.regFifo)
  | .rdregRxto1 _ | .wrregRxto1 _ => decide (0x2A#7 ≠ c.regFifo)
  | .rdregRxto2 _ | .wrregRxto2 _ => decide (0x2B#7 ≠ c.regFifo)
  | .sel | .desel | .xfer _ | .delay | .pwron
  | .setmodeSleep | .setmodeStandby | .setmodeFrequencySynth | .setmodeTransmit | .setmodeReceive
  | .irqsvc | .sample | .clear | .latch | .clrpr | .clrps | .clrto
  | .clrfPr | .clrfPs | .clrfTo | .rdfPr | .rdfPs | .rdfTo
  | .mappr | .mapps | .mapto | .toenOff | .toenOn | .forceto | .pwrfull => true

end Sys2Proof
end

