-- ==== Sys2Proof/Decode.lean ====
section
/-! DEFINITION. The decoder, total on any bytes of either interface and rejecting by name, and after it the
encoder, written from the same tables (R91, R92, R93, R100, R101). -/

namespace Sys2Proof

/-- Why bytes spell no operation. -/
inductive Reject where
  /-- a Format C word that R100 does not list (R104) -/
  | reservedCommand
  /-- a command that is not one 16-bit word (R102) -/
  | notOneWord
  /-- a bracket with no byte in it: nothing was transferred (log 11) -/
  | emptyTransaction
  /-- a transaction of one byte (R107) -/
  | shortTransaction
  /-- more than two bytes away from `REG_FIFO` (R107) -/
  | longTransaction
  deriving DecidableEq, Repr

/-- Format C (R93, R100): opcode `o`, operand `p`. -/
def decodeCommand (o p : Byte) : Except Reject Instr :=
  match o.toNat, p.toNat with
  | 0x01, 0x00 => .ok .sel
  | 0x02, 0x00 => .ok .desel
  | 0x03, _ => .ok (.xfer p)
  | 0x04, 0x00 => .ok .delay
  | 0x05, 0x00 => .ok .pwron
  | 0x10, 0x00 => .ok .setmodeSleep
  | 0x10, 0x01 => .ok .setmodeStandby
  | 0x10, 0x02 => .ok .setmodeFrequencySynth
  | 0x10, 0x03 => .ok .setmodeTransmit
  | 0x10, 0x04 => .ok .setmodeReceive
  | 0x20, 0x00 => .ok .irqsvc
  | 0x21, 0x00 => .ok .sample
  | 0x22, 0x00 => .ok .clear
  | 0x23, 0x00 => .ok .latch
  | 0x24, 0x00 => .ok .clrpr
  | 0x24, 0x01 => .ok .clrps
  | 0x24, 0x02 => .ok .clrto
  | 0x25, 0x00 => .ok .clrfPr
  | 0x25, 0x01 => .ok .clrfPs
  | 0x25, 0x02 => .ok .clrfTo
  | 0x26, 0x00 => .ok .rdfPr
  | 0x26, 0x01 => .ok .rdfPs
  | 0x26, 0x02 => .ok .rdfTo
  | 0x27, 0x00 => .ok .mappr
  | 0x27, 0x01 => .ok .mapps
  | 0x27, 0x02 => .ok .mapto
  | 0x30, 0x00 => .ok .toenOff
  | 0x30, 0x01 => .ok .toenOn
  | 0x31, 0x00 => .ok .forceto
  | 0x32, 0x00 => .ok .pwrfull
  | _, _ => .error .reservedCommand

/-- The register number of an address byte: bits 6:0 (R91, R122). -/
def addrOf (b : Byte) : Addr := b.setWidth 7

/-- The `w` bit of an address byte: bit 7, 1 for a write (R91). -/
def writeBit (b : Byte) : Bool := b.getLsbD 7

/-- The address byte of a transaction: `w` then the seven address bits (R91, R92). -/
def addrByte (w : Bool) (a : Addr) : Byte := BitVec.ofBool w ++ a

/-- A read frame of a register other than `REG_FIFO`: the rows of the numbered registers take precedence. -/
def readAt (a : Addr) (d : Byte) : Instr :=
  match a.toNat with
  | 0x01 => .rdregOpmode d
  | 0x10 => .rdregVersion d
  | 0x11 => .rdregPower d
  | 0x24 => .rdregRssi d
  | 0x25 => .rdregPinmapA d
  | 0x26 => .rdregPinmapB d
  | 0x27 => .rdregIrq1 d
  | 0x28 => .rdregIrq2 d
  | 0x2A => .rdregRxto1 d
  | 0x2B => .rdregRxto2 d
  | _ => .rdreg a d

/-- A write frame of a register other than `REG_FIFO`. -/
def writeAt (a : Addr) (d : Byte) : Instr :=
  match a.toNat with
  | 0x01 => .wrregOpmode d
  | 0x10 => .wrregVersion d
  | 0x11 => .wrregPower d
  | 0x24 => .wrregRssi d
  | 0x25 => .wrregPinmapA d
  | 0x26 => .wrregPinmapB d
  | 0x27 => .wrregIrq1 d
  | 0x28 => .wrregIrq2 d
  | 0x2A => .wrregRxto1 d
  | 0x2B => .wrregRxto2 d
  | _ => .wrreg a d

/-- Formats B and F (R101, R102): the bytes of one bracket. R102 refuses one byte, and more than two away from `REG_FIFO`;
that a frame of no bytes handed over whole is no instruction and is refused as they are is the model's choice (DESIGN
CHOICE, log 37). -/
def decodeFrame (c : Cfg) : List Byte → Except Reject Instr
  | [] => .error .emptyTransaction
  | [_] => .error .shortTransaction
  | ab :: d :: ds =>
    if addrOf ab = c.regFifo then
      .ok (if writeBit ab then .fifowr (d :: ds) else .fiford (d :: ds))
    else if ds.isEmpty then
      .ok (if writeBit ab then writeAt (addrOf ab) d else readAt (addrOf ab) d)
    else .error .longTransaction

/-- The decoder: the interface tells the format (R90). -/
def decode (c : Cfg) : Port → List Byte → Except Reject Instr
  | .command, [o, p] => decodeCommand o p
  | .command, _ => .error .notOneWord
  | .bus, bytes => decodeFrame c bytes

/-- The instruction that decoding answers, if any. -/
def decoded? (c : Cfg) (port : Port) (bytes : List Byte) : Option Instr :=
  match decode c port bytes with
  | .ok i => some i
  | .error _ => none

/-- The interface and the bytes of an instruction (R91, R92, R93). -/
def encode (c : Cfg) : Instr → Port × List Byte
  | .sel => (.command, [0x01#8, 0x00#8])
  | .desel => (.command, [0x02#8, 0x00#8])
  | .xfer b => (.command, [0x03#8, b])
  | .delay => (.command, [0x04#8, 0x00#8])
  | .pwron => (.command, [0x05#8, 0x00#8])
  | .setmodeSleep => (.command, [0x10#8, 0x00#8])
  | .setmodeStandby => (.command, [0x10#8, 0x01#8])
  | .setmodeFrequencySynth => (.command, [0x10#8, 0x02#8])
  | .setmodeTransmit => (.command, [0x10#8, 0x03#8])
  | .setmodeReceive => (.command, [0x10#8, 0x04#8])
  | .irqsvc => (.command, [0x20#8, 0x00#8])
  | .sample => (.command, [0x21#8, 0x00#8])
  | .clear => (.command, [0x22#8, 0x00#8])
  | .latch => (.command, [0x23#8, 0x00#8])
  | .clrpr => (.command, [0x24#8, 0x00#8])
  | .clrps => (.command, [0x24#8, 0x01#8])
  | .clrto => (.command, [0x24#8, 0x02#8])
  | .clrfPr => (.command, [0x25#8, 0x00#8])
  | .clrfPs => (.command, [0x25#8, 0x01#8])
  | .clrfTo => (.command, [0x25#8, 0x02#8])
  | .rdfPr => (.command, [0x26#8, 0x00#8])
  | .rdfPs => (.command, [0x26#8, 0x01#8])
  | .rdfTo => (.command, [0x26#8, 0x02#8])
  | .mappr => (.command, [0x27#8, 0x00#8])
  | .mapps => (.command, [0x27#8, 0x01#8])
  | .mapto => (.command, [0x27#8, 0x02#8])
  | .toenOff => (.command, [0x30#8, 0x00#8])
  | .toenOn => (.command, [0x30#8, 0x01#8])
  | .forceto => (.command, [0x31#8, 0x00#8])
  | .pwrfull => (.command, [0x32#8, 0x00#8])
  | .rdreg a d => (.bus, [addrByte false a, d])
  | .wrreg a d => (.bus, [addrByte true a, d])
  | .fifowr bytes => (.bus, addrByte true c.regFifo :: bytes)
  | .fiford fill => (.bus, addrByte false c.regFifo :: fill)
  | .rdregOpmode d => (.bus, [addrByte false 0x01#7, d])
  | .wrregOpmode d => (.bus, [addrByte true 0x01#7, d])
  | .rdregVersion d => (.bus, [addrByte false 0x10#7, d])
  | .wrregVersion d => (.bus, [addrByte true 0x10#7, d])
  | .rdregPower d => (.bus, [addrByte false 0x11#7, d])
  | .wrregPower d => (.bus, [addrByte true 0x11#7, d])
  | .rdregRssi d => (.bus, [addrByte false 0x24#7, d])
  | .wrregRssi d => (.bus, [addrByte true 0x24#7, d])
  | .rdregPinmapA d => (.bus, [addrByte false 0x25#7, d])
  | .wrregPinmapA d => (.bus, [addrByte true 0x25#7, d])
  | .rdregPinmapB d => (.bus, [addrByte false 0x26#7, d])
  | .wrregPinmapB d => (.bus, [addrByte true 0x26#7, d])
  | .rdregIrq1 d => (.bus, [addrByte false 0x27#7, d])
  | .wrregIrq1 d => (.bus, [addrByte true 0x27#7, d])
  | .rdregIrq2 d => (.bus, [addrByte false 0x28#7, d])
  | .wrregIrq2 d => (.bus, [addrByte true 0x28#7, d])
  | .rdregRxto1 d => (.bus, [addrByte false 0x2A#7, d])
  | .wrregRxto1 d => (.bus, [addrByte true 0x2A#7, d])
  | .rdregRxto2 d => (.bus, [addrByte false 0x2B#7, d])
  | .wrregRxto2 d => (.bus, [addrByte true 0x2B#7, d])

/-- The agents that may issue an instruction: R100's "issued by" column for command words, the Host for writes (R124).
For the other bus frames no rule names an issuer: the Host alone for the FIFO frames (log 11), and Host and Isr for a
register read (log 31, which also says which registers the Isr may read) are the model's choice (DESIGN CHOICE). -/
def Instr.issuers : Instr → List Agent
  | .sel | .desel | .xfer _ => [.host, .isr]
  | .irqsvc | .sample | .latch => [.isr]
  | .forceto => [.timer]
  | .rdreg _ _ | .rdregOpmode _ | .rdregVersion _ | .rdregPower _ | .rdregRssi _
  | .rdregPinmapA _ | .rdregPinmapB _ | .rdregIrq1 _ | .rdregIrq2 _ | .rdregRxto1 _ | .rdregRxto2 _ =>
    [.host, .isr]
  | .delay | .pwron
  | .setmodeSleep | .setmodeStandby | .setmodeFrequencySynth | .setmodeTransmit | .setmodeReceive
  | .clear | .clrpr | .clrps | .clrto | .clrfPr | .clrfPs | .clrfTo | .rdfPr | .rdfPs | .rdfTo
  | .mappr | .mapps | .mapto | .toenOff | .toenOn | .pwrfull
  | .wrreg _ _ | .fifowr _ | .fiford _
  | .wrregOpmode _ | .wrregVersion _ | .wrregPower _ | .wrregRssi _ | .wrregPinmapA _ | .wrregPinmapB _
  | .wrregIrq1 _ | .wrregIrq2 _ | .wrregRxto1 _ | .wrregRxto2 _ => [.host]

/-- The agent that issues an instruction first in R100's column. -/
def Instr.issuer (i : Instr) : Agent := i.issuers.headD .host

/-- Byte `k` of a number, the least significant first. -/
def byteAt (w k : Nat) : Byte := BitVec.ofNat 8 (w / 256 ^ k)

/-- The interface and the bytes of an instruction whose bits the opcode table numbers as `w`: a row of one
byte is the first byte of a Format F burst, with one data byte of zeros; a row of 16 bits is one word, high
byte first, a Format C word where that is one and a Format B frame otherwise (R90 tells the two by the
interface, which the number does not carry: DESIGN CHOICE, log 13); more bits are a burst, first byte
lowest. -/
def tableBytes (nbits w : Nat) : Port × List Byte :=
  if nbits ≤ 8 then (.bus, [byteAt w 0, 0x00#8])
  else if nbits ≤ 16 then
    match decodeCommand (byteAt w 1) (byteAt w 0) with
    | .ok _ => (.command, [byteAt w 1, byteAt w 0])
    | .error _ => (.bus, [byteAt w 1, byteAt w 0])
  else (.bus, (List.range ((nbits + 7) / 8)).map (byteAt w))

/-- What the decoder reads from a table word, under `cfgH0`. -/
def decodeTableWord (nbits w : Nat) : Option Instr :=
  decoded? cfgH0 (tableBytes nbits w).1 (tableBytes nbits w).2

end Sys2Proof
end

