-- ==== Sys2Proof/Machine/State.lean ====
section
/-! DEFINITION. The state of FSK-MCTL (R20) as plain data, grouped by where the spec puts it, the faults and
refusals (R10, R267), and the state after reset (R44). -/

namespace Sys2Proof.Machine

/-- The recorded faults (R266, R268). `State.faults` keeps them; the faulted state is not final (R10), so no
step answers `Host.Outcome.fault`. -/
inductive Fault where
  /-- R268, R310: a register transaction at `a` while `settlePending` = 1. Raised by the agent that issues the
  transaction. Safe: nothing is concluded from the access. -/
  | unsettledAccess (a : Addr)
  /-- R266: READPL popped a length byte 0. Raised by the Host. Safe. -/
  | malformedLength
  deriving DecidableEq, Repr

/-- The refusals: the list of R267, and the rejection by name of an instruction without a meaning. Each is
safe: the run ends where the spec gives no meaning. -/
inductive Refusal where
  /-- An instruction without a meaning in `exec`: none in this model. -/
  | notModelled (mnemonic : String)
  /-- R267 (a), R104: raised by `step` for a command word that R100 does not list. -/
  | reservedCommand
  /-- R107, R102: raised by DESEL and by `step` for a transaction of no or one byte handed over whole, or more
  than two bytes away from `REG_FIFO`. -/
  | badShape
  /-- R267 (b), R105: raised by a write of `REG_OPMODE` with a reserved mode pattern. -/
  | reservedModePattern
  /-- R267 (c), R106: raised by a write to a status, identification, power or RSSI register. -/
  | refusedWrite
  /-- R267 (d), R107: raised by an operation of the other family. -/
  | familyMismatch
  /-- R267 (e), R120: raised by SEL, and by every operation that begins with one, while a transaction is open;
  and by XFER or DESEL of an agent that does not hold the bus (R70). -/
  | transactionOpen
  /-- R267 (e), R121, R122: raised by XFER or DESEL while no transaction is open. -/
  | noTransaction
  /-- R267 (f), R169: raised by an operation of another agent. -/
  | wrongAgent
  /-- R267 (g), R125: raised by a FIFO write of more than `MAX_PAYLOAD` + 2 bytes. -/
  | burstTooLong
  /-- R267 (h), R262: raised by a Host operation other than INIT after a failed INIT. -/
  | initFailed
  deriving DecidableEq, Repr

/-- The outcome of a step of this machine. -/
abbrev Out (σ : Type) := Host.Outcome σ Fault Refusal

/-- The register file's stored bytes: cells in strictly rising address order, none holding what an unlisted
address reads as (log 30). -/
abbrev Memory := List Host.Cell

/-- One bit per event: the hardware flags (R27), the latch booleans (R34). -/
structure EventBits where
  pr : Bool
  ps : Bool
  tmo : Bool
  deriving DecidableEq, Repr

/-- A Radio step with what the Radio delivers (R250 to R254, log 28). -/
inductive RadioEvent where
  /-- EV_PR: the frame is non-empty, `first :: rest` (R250) -/
  | payloadReady (first : Byte) (rest : List Byte) (crc : Bool) (rssi : Byte)
  /-- EV_PS (R251) -/
  | packetSent
  /-- EV_TO (R253, R254) -/
  | timeout
  /-- EV_AUTOCLR (R252) -/
  | autoClear (e : Event)
  deriving DecidableEq, Repr

/-- What may fall between two transactions of one primitive (R72). -/
inductive EnvStep where
  | irqsvc
  | forceto
  | radio (ev : RadioEvent)
  deriving DecidableEq, Repr

/-- The pseudo-instructions (R108). WAITF's list of events is non-empty (R210). -/
inductive Pseudo where
  | waitf (first : Event) (rest : List Event)
  | init (frequency : Nat) (node broadcast : Byte)
  | sleep
  | wake
  | startrx (t : Bool)
  | pollrx
  | readpl (cap : Nat)
  | rxpl (cap : Nat) (t : Bool)
  | txpl (payload : List Byte) (dest : Byte)
  | setaddr (addr : Byte)
  | setpwr (x : Int)
  | getpwr
  deriving DecidableEq, Repr

/-- The locals of an expansion (R42, R211): dead at return. -/
structure Locals where
  /-- the snapshot WAITF collects -/
  flags : List Bool
  /-- RXPL's snapshot of F[TO] -/
  tmo : Bool
  /-- INIT's identification byte, POLLRX's status byte, READPL's length byte -/
  v : Byte
  /-- POLLRX's RSSI byte -/
  q : Byte
  /-- READPL's loop index -/
  i : Nat
  /-- READPL's buffer -/
  buffer : List Byte
  deriving DecidableEq, Repr

/-- The locals of a fresh frame. -/
def Locals.fresh : Locals := ⟨[], false, 0#8, 0#8, 0, []⟩

/-- One frame of `hostPos`: pseudo-instruction, statement index, locals (R42). -/
structure Frame where
  op : Pseudo
  idx : Nat
  locals : Locals
  deriving DecidableEq, Repr

/-- What an operation returns to its caller (log 18). -/
inductive Result where
  | none
  /-- RDREG, XFER -/
  | byte (b : Byte)
  /-- FIFORD -/
  | bytes (bs : List Byte)
  /-- RDF -/
  | flag (b : Bool)
  /-- WAITF's snapshot -/
  | flags (bs : List Bool)
  /-- INIT -/
  | success (ok : Bool)
  /-- PayloadFlags (R37) -/
  | payloadFlags (ready : Bool) (rssi : Byte) (crc : Bool)
  /-- READPL, RXPL, TXPL: the count, and what was copied into the caller's buffer -/
  | count (n : Nat) (buffer : List Byte)
  /-- GETPWR -/
  | power (dBm : Int)
  deriving DecidableEq, Repr

/-- One bracket on the register port: the bytes sent and the bytes shifted back in the data slots of a read
(R91, R92). -/
structure BusFrame where
  sent : List Byte
  got : List Byte
  deriving DecidableEq, Repr

/-- One entry of the schedule (log 2). -/
inductive Input where
  /-- an agent hands over an operation's bytes on an interface, with the steps of the other agents that fall
  between its transactions -/
  | op (ag : Agent) (port : Port) (bytes : List Byte) (gaps : List (List EnvStep))
  /-- the Host calls a public operation -/
  | call (p : Pseudo)
  /-- the Host executes the next statement of its expansion -/
  | host (gaps : List (List EnvStep))
  /-- a Radio step -/
  | radio (ev : RadioEvent)
  deriving DecidableEq, Repr

/-- The chip side (R21, R24 to R32). -/
structure Chip where
  /-- the stored registers: OPMODE, PINMAP_A, PINMAP_B and, under family H, RXTO1, RXTO2 -/
  regs : Memory
  /-- `hwF` (R27) -/
  hw : EventBits
  crcOk : Bool
  rssiRaw : Byte
  fifo : List Byte
  outputPower : Int
  deriving DecidableEq, Repr

/-- The latch: family H uses the shadow pair (R33), family S the booleans (R34) (log 27). -/
structure LatchState where
  shadow1 : Byte
  shadow2 : Byte
  bits : EventBits
  deriving DecidableEq, Repr

/-- The interrupt pins' hidden state (R38). -/
structure Pins where
  level0 : Bool
  level1 : Bool
  irqPend : Bool
  inIsr : Bool
  deriving DecidableEq, Repr

/-- The register port's hidden state (R39, R40) and the open transaction (R122, log 11, log 12). -/
structure PortState where
  settlePending : Bool
  busSelected : Bool
  /-- the agent whose SEL opened the bracket -/
  owner : Agent
  /-- the bytes sent since SEL, the address byte first -/
  sent : List Byte
  /-- the byte shifted back in each of those slots -/
  got : List Byte
  deriving DecidableEq, Repr

/-- Beside the block (R42): the Host's position, the fault record, who has stopped (R8, R10), a failed INIT
(R262), and the last results returned. -/
structure Caller where
  hostPos : List Frame
  faults : List Fault
  hostStopped : Bool
  isrStopped : Bool
  initFailed : Bool
  result : Result
  isrResult : Result
  deriving DecidableEq, Repr

/-- The model's own fields: the schedule, the pre-emptions of the operation in hand, its issuer, the draw
counter and the frames put on the register port, oldest first (log 2, 5, 9, 17). -/
structure Env where
  input : List Input
  gaps : List (List EnvStep)
  agent : Agent
  draws : Nat
  bus : List BusFrame
  deriving DecidableEq, Repr

/-- The model's own record of what has happened, which only the fairness premises of Safety.lean read (DESIGN CHOICE,
log 35). -/
structure Seen where
  /-- how often IRQSVC was entered -/
  services : Nat
  /-- EV_PS has occurred since Transmit was entered -/
  packetSent : Bool
  /-- EV_TO has occurred since `Armed()` began to hold (family H) -/
  timedOut : Bool
  deriving DecidableEq, Repr

/-- The state (R20). `cfg` is fixed before reset and never changed (R5, log 1). -/
structure State where
  cfg : Cfg
  chip : Chip
  latch : LatchState
  pins : Pins
  port : PortState
  caller : Caller
  env : Env
  seen : Seen
  deriving DecidableEq, Repr

/-- The state right after reset (R44, R300) under `cfgH0`: Standby, flags and pins 0, FIFO empty, settle
pending. What R44 leaves unspecified is 0 here (DESIGN CHOICE, log 4); the schedule is empty (log 2). -/
def State.reset : State where
  cfg := cfgH0
  chip :=
    { regs := [(0x01, 0x04#8)], hw := ⟨false, false, false⟩, crcOk := false, rssiRaw := 0#8, fifo := [],
      outputPower := 0 }
  latch := { shadow1 := 0#8, shadow2 := 0#8, bits := ⟨false, false, false⟩ }
  pins := { level0 := false, level1 := false, irqPend := false, inIsr := false }
  port := { settlePending := true, busSelected := false, owner := .host, sent := [], got := [] }
  caller :=
    { hostPos := [], faults := [], hostStopped := false, isrStopped := false, initFailed := false,
      result := .none, isrResult := .none }
  env := { input := [], gaps := [], agent := .host, draws := 0, bus := [] }
  seen := { services := 0, packetSent := false, timedOut := false }

end Sys2Proof.Machine
end

