-- ==== Sys2Proof/Machine/Operands.lean ====
section
/-! DEFINITION. Operands and fields: bits of a byte (R7), mode patterns (R95), flag places (R96), pin
selectors (R97), the mode decoded (R25). -/

namespace Sys2Proof.Machine

/-- `v[b]` (R7). -/
def bitOf (v : Byte) (b : Fin 8) : Bool := v.getLsbD b.val

/-- The byte with only bit `b` set. -/
def bitMask (b : Fin 8) : Byte := 1#8 <<< b.val

/-- `v[b] <- x`. -/
def putBit (v : Byte) (b : Fin 8) (x : Bool) : Byte :=
  if x then v ||| bitMask b else v &&& ~~~ bitMask b

/-- Replace the field selected by `mask` with `sel`: the read-modify-write of R140 and R176. -/
def putField (v mask sel : Byte) : Byte := (v &&& ~~~ mask) ||| sel

/-- `clamp(x, lo, hi)` (R7). -/
def clampInt (x lo hi : Int) : Int := max lo (min x hi)

end Sys2Proof.Machine

namespace Sys2Proof

/-- `MODE_BITS(m)` (R94, R95). -/
def Cfg.modeBits (c : Cfg) : Mode → Byte
  | .sleep => c.modePatterns.sleep
  | .standby => c.modePatterns.standby
  | .frequencySynth => c.modePatterns.frequencySynth
  | .transmit => c.modePatterns.transmit
  | .receive => c.modePatterns.receive

/-- The mode whose pattern the MODE field of `v` holds, none when it is reserved (R25, R105). -/
def Cfg.modeOf (c : Cfg) (v : Byte) : Option Mode :=
  [Mode.sleep, .standby, .frequencySynth, .transmit, .receive].find? fun m =>
    c.modeBits m == (v &&& c.modeMask)

/-- `LOC(e)` (R96). -/
def Cfg.loc (c : Cfg) : Event → Loc
  | .pr => c.locPr
  | .ps => c.locPs
  | .tmo => c.locTo

/-- The address of a status register (R26). -/
def Cfg.regIrq (c : Cfg) : StatusReg → Addr
  | .one => c.regIrq1
  | .two => c.regIrq2

/-- A chip is there: it identifies itself with another value than the invalid one (R31). -/
def Cfg.present (c : Cfg) : Bool := c.versionValue != c.versionInvalid

/-- The registers only the Host accesses: the mode register (R24), the pin-map registers (R30), the duration
registers of family H (R29), and REG_FIFO, whose two operations are the Host's (log 11). -/
def Cfg.hostOnly (c : Cfg) (a : Addr) : Bool :=
  decide (a ∈ [c.regFifo, c.regOpmode, c.regPinmapA, c.regPinmapB])
    || (c.family == .h && decide (a ∈ [c.regRxto1, c.regRxto2]))

/-- The agents that may read register `a`. That the Isr may read the registers no rule keeps for the Host is the
model's choice (DESIGN CHOICE, log 31). -/
def Cfg.readers (c : Cfg) (a : Addr) : List Agent := if c.hostOnly a then [.host] else [.host, .isr]

/-- The number of bytes encode and TXPL carry: `min(length(p), MAX_PAYLOAD)` (R229). -/
def Cfg.payloadCount (c : Cfg) (payload : List Byte) : Nat := min payload.length c.maxPayload

/-- The frame's bytes (R229). -/
def Cfg.encodeFrame (c : Cfg) (payload : List Byte) (dest : Byte) : List Byte :=
  BitVec.ofNat 8 (c.payloadCount payload + 1) :: dest :: payload.take (c.payloadCount payload)

end Sys2Proof
end

