-- ==== Sys2Proof/Machine/Flags.lean ====
section
/-! DEFINITION. The flag computations: event bits, the flag view `F[e]` (R35), the status views (R26), the
latch updates. -/

namespace Sys2Proof.Machine

/-- Bit `e`. -/
def EventBits.get (x : EventBits) : Event → Bool
  | .pr => x.pr
  | .ps => x.ps
  | .tmo => x.tmo

/-- Bit `e` set to `v`. -/
def EventBits.set (x : EventBits) (e : Event) (v : Bool) : EventBits :=
  match e with
  | .pr => { x with pr := v }
  | .ps => { x with ps := v }
  | .tmo => { x with tmo := v }

/-- `sh(k)` (R35). -/
def LatchState.shadow (l : LatchState) : StatusReg → Byte
  | .one => l.shadow1
  | .two => l.shadow2

/-- One atomic store of a shadow byte (R73). -/
def LatchState.setShadow (l : LatchState) (k : StatusReg) (v : Byte) : LatchState :=
  match k with
  | .one => { l with shadow1 := v }
  | .two => { l with shadow2 := v }

/-- The flag view `F[e]`: the shadow bit under family H, the boolean under family S (R35). -/
def flagView (s : State) (e : Event) : Bool :=
  match s.cfg.family with
  | .h => bitOf (s.latch.shadow (s.cfg.loc e).reg) (s.cfg.loc e).bit
  | .s => s.latch.bits.get e

/-- Put bit `x` into `v` where `l` is a place in status register `k`. -/
def putLoc (k : StatusReg) (l : Loc) (x : Bool) (v : Byte) : Byte :=
  if l.reg = k then putBit v l.bit x else v

/-- The view of status register `k` over the undefined bits `d` (R26, R66). -/
def statusView (k : StatusReg) (d : Byte) (s : State) : Byte :=
  putLoc k s.cfg.locCrc s.chip.crcOk <|
    putLoc k s.cfg.locTo s.chip.hw.tmo <|
      putLoc k s.cfg.locPs s.chip.hw.ps <|
        putLoc k s.cfg.locPr s.chip.hw.pr d

/-- The hardware flags that a family S read of status register `k` leaves: those it returned are 0 (R66). -/
def hwAfterRead (k : StatusReg) (s : State) : EventBits :=
  { pr := s.chip.hw.pr && decide (s.cfg.locPr.reg ≠ k)
    ps := s.chip.hw.ps && decide (s.cfg.locPs.reg ≠ k)
    tmo := s.chip.hw.tmo && decide (s.cfg.locTo.reg ≠ k) }

/-- The latch booleans with the events of two status bytes or-ed in (R163). -/
def orEvents (c : Cfg) (f1 f2 : Byte) (x : EventBits) : EventBits :=
  let hit (l : Loc) : Bool := bitOf (match l.reg with | .one => f1 | .two => f2) l.bit
  { pr := x.pr || hit c.locPr, ps := x.ps || hit c.locPs, tmo := x.tmo || hit c.locTo }

end Sys2Proof.Machine
end

