-- ==== Sys2Proof/Machine/Ops.lean ====
section
/-! DEFINITION. The named operations over the register file, the draws, the pins, taking a fault, entering and
leaving the interrupt service, and the register-port transactions every instruction is built on. -/

namespace Sys2Proof.Machine

/-! ## The register file (R21, R60) -/

/-- The byte at an address; an unlisted one reads as 0x00 (log 4). -/
def Memory.read : Memory → Nat → Byte
  | [], _ => 0#8
  | (k, v) :: m, a => if k = a then v else Memory.read m a

/-- Store a byte, keeping the canonical form: writing 0x00 removes the entry. -/
def Memory.write : Memory → Nat → Byte → Memory
  | [], a, v => if v = 0#8 then [] else [(a, v)]
  | (k, w) :: m, a, v =>
    if a < k then (if v = 0#8 then (k, w) :: m else (a, v) :: (k, w) :: m)
    else if a = k then (if v = 0#8 then m else (a, v) :: m)
    else (k, w) :: Memory.write m a v

/-- The canonical form: addresses strictly rising and below 128, no entry 0x00. -/
def Memory.wf (m : Memory) : Bool :=
  decide (m.Pairwise fun x y => x.1 < y.1) && m.all fun x => decide (x.1 < 128) && x.2 != 0#8

/-- `R[a]` (R8). -/
def State.reg (s : State) (a : Addr) : Byte := Memory.read s.chip.regs a.toNat

/-- `hwF[e] <- v` (R27). -/
def State.setHw (s : State) (e : Event) (v : Bool) : State :=
  { s with chip := { s.chip with hw := s.chip.hw.set e v } }

/-- `Mode()`, none where the MODE field is reserved (R25). -/
def State.mode? (s : State) : Option Mode := s.cfg.modeOf (s.reg s.cfg.regOpmode)

/-- `Armed()` (R41). -/
def State.armed (s : State) : Bool :=
  s.cfg.family == .h && s.mode? == some .receive
    && (s.reg s.cfg.regRxto1 != 0#8 || s.reg s.cfg.regRxto2 != 0#8)

/-- `R[a] <- v`, the byte alone (R8). -/
def State.storeReg (s : State) (a : Addr) (v : Byte) : State :=
  { s with chip := { s.chip with regs := Memory.write s.chip.regs a.toNat v } }

/-- What still counts of the record `seen` once the registers have changed: an event of a mode, or of a countdown, that
is over does not (log 35). -/
def State.seenNow (s : State) : Seen :=
  { s.seen with
    packetSent := s.seen.packetSent && s.mode? == some .transmit
    timedOut := s.seen.timedOut && s.armed }

/-- `R[a] <- v` (R8), and the model's own record follows. -/
def State.setReg (s : State) (a : Addr) (v : Byte) : State :=
  { s.storeReg a v with seen := (s.storeReg a v).seenNow }

/-! ## Draws, results, the bus record -/

/-- `n` draws have been made (log 5). -/
def State.drew (s : State) (n : Nat) : State := { s with env := { s.env with draws := s.env.draws + n } }

/-- The next `draw8()` (R8). -/
def State.free8 (s : State) : Byte := Config.freeByte s.env.draws

/-- One bracket has been put on the register port (log 17). -/
def State.sentFrame (s : State) (sent got : List Byte) : State :=
  { s with env := { s.env with bus := s.env.bus ++ [⟨sent, got⟩] } }

/-- Hand a result to the agent that issued the operation (log 18). -/
def State.answer (s : State) (r : Result) : State :=
  match s.env.agent with
  | .isr => { s with caller := { s.caller with isrResult := r } }
  | .host | .timer | .radio => { s with caller := { s.caller with result := r } }

/-! ## The interrupt pins -/

/-- `PinFn0()` (R255). -/
def State.pinFn0 (s : State) : Bool :=
  let f := s.reg s.cfg.regPinmapA &&& s.cfg.pin0Mask
  if f = s.cfg.pin0SelPr then s.chip.hw.pr else if f = s.cfg.pin0SelPs then s.chip.hw.ps else false

/-- `PinFn1()` (R255). -/
def State.pinFn1 (s : State) : Bool :=
  if s.reg s.cfg.regPinmapB &&& s.cfg.pin1Mask = s.cfg.pin1SelTo then s.chip.hw.tmo else false

/-- `UpdatePins()`: recompute the levels; a rising edge of either sets `irqPend` (R256). -/
def State.updatePins (s : State) : State :=
  { s with
    pins :=
      { s.pins with
        level0 := s.pinFn0
        level1 := s.pinFn1
        irqPend := s.pins.irqPend || (!s.pins.level0 && s.pinFn0) || (!s.pins.level1 && s.pinFn1) } }

/-- Clear a hardware flag and recompute the pins. -/
def State.clearHw (s : State) (e : Event) : State := (s.setHw e false).updatePins

/-! ## Taking a fault; entering and leaving the interrupt service -/

/-- The key by which the fault record is kept in order. -/
def Fault.key : Fault → Nat
  | .unsettledAccess a => a.toNat
  | .malformedLength => 128

/-- `fault <- fault + {f}`: the record as a rising list without repeats (log 25). -/
def insertFault (f : Fault) : List Fault → List Fault
  | [] => [f]
  | g :: l =>
    if f.key < g.key then f :: g :: l else if f.key = g.key then g :: l else g :: insertFault f l

/-- `raise f`: the fault is recorded and the agent stops (R8, R10, R310); a fault ends the Host's expansion
(R211). The Timer and the Radio never raise. -/
def raise (ag : Agent) (f : Fault) (s : State) : State :=
  let s1 := { s with caller := { s.caller with faults := insertFault f s.caller.faults } }
  match ag with
  | .host => { s1 with caller := { s1.caller with hostStopped := true, hostPos := [] } }
  | .isr => { s1 with caller := { s1.caller with isrStopped := true } }
  | .timer | .radio => s1

/-- Interrupt entry (R258): nothing else is saved. -/
def enterIsr (s : State) : State :=
  { s with
    pins := { s.pins with irqPend := false, inIsr := true }
    seen := { s.seen with services := s.seen.services + 1 } }

/-- Return from the interrupt service (R259): the Host resumes at the same `hostPos`. -/
def leaveIsr (s : State) : State := { s with pins := { s.pins with inIsr := false } }

/-! ## Transactions -/

/-- How a register-port operation ends: done with a value; a fault raised (the issuing agent stops, the run
goes on, R10); refused. -/
inductive Tx (α : Type) where
  | done (v : α) (s : State)
  | raised (s : State)
  | refused (r : Refusal)

/-- Go on after a transaction that completed. -/
def Tx.andThen {α β : Type} (t : Tx α) (k : α → State → Tx β) : Tx β :=
  match t with
  | .done v s => k v s
  | .raised s => .raised s
  | .refused r => .refused r

/-- The outcome of an operation without a result. -/
def Tx.out (t : Tx Unit) : Out State :=
  match t with
  | .done _ s => .next s
  | .raised s => .next s
  | .refused r => .refused r

/-- The outcome of an operation that answers its value; a faulted read returns draws (R310). -/
def Tx.outWith {α : Type} (t : Tx α) (result : α → Result) (drawn : State → Result) (n : Nat) : Out State :=
  match t with
  | .done v s => .next (s.answer (result v))
  | .raised s => .next ((s.drew n).answer (drawn s))
  | .refused r => .refused r

/-- The state a transaction leaves, for a caller that cannot be refused. -/
def Tx.stateOr {α : Type} (t : Tx α) (s : State) : State :=
  match t with
  | .done _ s' => s'
  | .raised s' => s'
  | .refused _ => s

/-- One whole transaction at `a`: it begins with SEL, which is refused while a bracket is open (R107, R123);
while the chip settles it faults and changes nothing (R310). -/
def bracket {α : Type} (ag : Agent) (a : Addr) (s : State) (k : Tx α) : Tx α :=
  if s.port.busSelected then .refused .transactionOpen
  else if s.port.settlePending then .raised (raise ag (.unsettledAccess a) s)
  else k

/-- What a read of register `a` returns (R123, R66 to R69); undefined bits and undecoded registers are free.
At `REG_FIFO` it is the oldest byte (R62). An absent chip answers any byte but at `REG_VERSION` (R31, R148, U37 of
93_implementation_defined.md; log 34). -/
def readValue (a : Addr) (s : State) : Byte :=
  if s.cfg.present = false ∧ a ≠ s.cfg.regVersion then s.free8
  else if a = s.cfg.regFifo then (s.chip.fifo.head?).getD s.free8
  else if a = s.cfg.regIrq1 then statusView .one s.free8 s
  else if a = s.cfg.regIrq2 then statusView .two s.free8 s
  else if a = s.cfg.regVersion then s.cfg.versionValue
  else if a = s.cfg.regRssi then s.chip.rssiRaw
  else if a = s.cfg.regOpmode ∨ a = s.cfg.regPinmapA ∨ a = s.cfg.regPinmapB then s.reg a
  else if s.cfg.family = .h ∧ (a = s.cfg.regRxto1 ∨ a = s.cfg.regRxto2) then s.reg a
  else s.free8

/-- A family S status read clears the flags it returned and recomputes the pins; a family H one changes
nothing (R66, R67). -/
def statusEffect (k : StatusReg) (s : State) : State :=
  match s.cfg.family with
  | .h => s
  | .s => ({ s with chip := { s.chip with hw := hwAfterRead k s } } : State).updatePins

/-- Take `n` bytes out of the FIFO (R62, R126); with AUTOCLEAR = datasheet a FIFORD that empties it clears
`hwF[PR]` of family H (R252, log 16). -/
def fifoPop (n : Nat) (s : State) : State :=
  let s1 : State := { s with chip := { s.chip with fifo := s.chip.fifo.drop n } }
  if s.cfg.family = .h ∧ s.cfg.autoClear = .datasheet ∧ s.chip.fifo ≠ [] ∧ s1.chip.fifo = [] then s1.clearHw .pr
  else s1

/-- What a read of register `a` does beside returning a byte (R66 to R68). -/
def readEffect (a : Addr) (s : State) : State :=
  if a = s.cfg.regFifo then fifoPop 1 s
  else if a = s.cfg.regIrq1 then statusEffect .one s
  else if a = s.cfg.regIrq2 then statusEffect .two s
  else s

/-- The deterministic clears of AUTOCLEAR = datasheet on a write of `REG_OPMODE`, each followed by
`UpdatePins()` (R252, log 16). -/
def modeClears (old : Option Mode) (s : State) : State :=
  if s.cfg.family = .h ∧ s.cfg.autoClear = .datasheet then
    let s1 := if old = some .transmit ∧ s.mode? ≠ some .transmit then s.clearHw .ps else s
    let s2 := if old = some .receive ∧ s.mode? ≠ some .receive then s1.clearHw .tmo else s1
    if old = some .receive ∧ s.mode? ≠ some .receive ∧ s.chip.fifo = [] then s2.clearHw .pr else s2
  else s

/-- Leaving Sleep sets `settlePending` (R141). -/
def settleAfter (old : Option Mode) (s : State) : State :=
  if old = some .sleep ∧ s.mode? ≠ some .sleep then { s with port := { s.port with settlePending := true } }
  else s

/-- The write of `REG_OPMODE` with a legal pattern (R124, R79). -/
def writeOpmode (d : Byte) (s : State) : State :=
  (modeClears s.mode? (settleAfter s.mode? (s.setReg s.cfg.regOpmode d))).updatePins

/-- What a write of register `a` does once the port has taken it (R124, R105, R106, R79). -/
def writeEffect (a : Addr) (d : Byte) (s : State) : Except Refusal State :=
  if a ∈ [s.cfg.regIrq1, s.cfg.regIrq2, s.cfg.regVersion, s.cfg.regPower, s.cfg.regRssi] then .error .refusedWrite
  else if a = s.cfg.regOpmode then
    if (s.cfg.modeOf d).isNone then .error .reservedModePattern else .ok (writeOpmode d s)
  else if a = s.cfg.regPinmapA ∨ a = s.cfg.regPinmapB then .ok (s.setReg a d).updatePins
  else if a = s.cfg.regRxto1 ∨ a = s.cfg.regRxto2 then
    if s.cfg.family = .s then .error .familyMismatch else .ok (s.setReg a d)
  else .ok s

/-- RDREG a by agent `ag`, with the filler the master sends in the data slot (R123). -/
def rdreg (ag : Agent) (a : Addr) (fill : Byte) (s : State) : Tx Byte :=
  bracket ag a s
    (.done (readValue a s) (((readEffect a s).drew 1).sentFrame [addrByte false a, fill] [readValue a s]))

/-- WRREG a, d by agent `ag` (R124). -/
def wrreg (ag : Agent) (a : Addr) (d : Byte) (s : State) : Tx Unit :=
  bracket ag a s <|
    match writeEffect a d s with
    | .ok s1 => .done () (s1.sentFrame [addrByte true a, d] [])
    | .error r => .refused r

/-- Append bytes to the FIFO, unless the burst is over the limit (R125). -/
def fifoPush (bytes : List Byte) (s : State) : Except Refusal State :=
  if s.cfg.maxPayload + 2 < bytes.length then .error .burstTooLong
  else .ok { s with chip := { s.chip with fifo := s.chip.fifo ++ bytes } }

/-- FIFOWR by agent `ag` (R125). -/
def fifowr (ag : Agent) (bytes : List Byte) (s : State) : Tx Unit :=
  bracket ag s.cfg.regFifo s <|
    match fifoPush bytes s with
    | .ok s1 => .done () (s1.sentFrame (addrByte true s.cfg.regFifo :: bytes) [])
    | .error r => .refused r

/-- The byte that data slot `i` of a FIFO read gives: the i-th oldest, or a free byte past the end (R126) and of an
absent chip (R148). -/
def fifoSlot (s : State) (i : Nat) : Byte :=
  if s.cfg.present then (s.chip.fifo[i]?).getD (Config.freeByte (s.env.draws + i))
  else Config.freeByte (s.env.draws + i)

/-- The bytes of `n` data slots. -/
def fifoSlots (n : Nat) (s : State) : List Byte := (List.range n).map (fifoSlot s)

/-- FIFORD n by agent `ag`, n being the number of filler bytes sent (R126). -/
def fiford (ag : Agent) (fill : List Byte) (s : State) : Tx (List Byte) :=
  bracket ag s.cfg.regFifo s
    (.done (fifoSlots fill.length s)
      (((fifoPop fill.length s).drew fill.length).sentFrame (addrByte false s.cfg.regFifo :: fill)
        (fifoSlots fill.length s)))

/-! ## Admission -/

/-- The agent discipline (R169, R267 (f)), and no Host operation but INIT after a failed INIT (R262,
R267 (h)). -/
def ifAdmitted (who : List Agent) (s : State) (k : Out State) : Out State :=
  if ¬ s.env.agent ∈ who then .refused .wrongAgent
  else if s.env.agent = .host ∧ s.caller.initFailed = true then .refused .initFailed
  else k

/-- An operation of family `f` only (R107, R267 (d)). -/
def ofFamily (f : Family) (s : State) (k : Out State) : Out State :=
  if s.cfg.family = f then k else .refused .familyMismatch

end Sys2Proof.Machine
end

