-- ==== Sys2Proof/Machine/Radio.lean ====
section
/-! DEFINITION. The Radio steps EV_PR, EV_PS, EV_TO, EV_AUTOCLR (R250 to R254). -/

namespace Sys2Proof.Machine

/-- `Quiet(e)` (R252); with the mode undefined no Radio event is enabled (R105, log 26). In Sleep it holds as R252 and
R142 have it, though R271 says that no Radio step is enabled there: the model's choice (DESIGN CHOICE, log 33). -/
def quiet (s : State) (e : Event) : Bool :=
  s.mode?.isSome &&
    match e with
    | .ps => s.mode? != some .transmit
    | .tmo => s.mode? != some .receive
    | .pr => s.mode? != some .receive || s.chip.fifo.isEmpty

/-- When a Radio step is enabled (R250 to R254). An event falls between two transactions, never inside one
(R71). -/
def radioEnabled (s : State) : RadioEvent → Bool
  | .payloadReady _ _ _ _ => !s.port.busSelected && s.mode? == some .receive && !s.chip.hw.pr
  | .packetSent => !s.port.busSelected && s.mode? == some .transmit && !s.chip.hw.ps
  | .timeout =>
    !s.port.busSelected && !s.chip.hw.tmo &&
      match s.cfg.family with
      | .h => s.armed
      | .s => s.mode? == some .receive
  | .autoClear e =>
    !s.port.busSelected && s.cfg.family == .h && s.cfg.autoClear == .draw && s.chip.hw.get e && quiet s e

/-- What the Radio writes before it recomputes the pins. -/
def radioWrite (s : State) : RadioEvent → State
  | .payloadReady first rest crc rssi =>
    { s with
      chip := { s.chip with fifo := first :: rest, crcOk := crc, rssiRaw := rssi, hw := s.chip.hw.set .pr true } }
  | .packetSent =>
    { s with
      chip := { s.chip with fifo := [], hw := s.chip.hw.set .ps true }
      seen := { s.seen with packetSent := true } }
  | .timeout => { s.setHw .tmo true with seen := { s.seen with timedOut := s.armed } }
  | .autoClear e => s.setHw e false

/-- A Radio step; one that is not enabled changes nothing (log 7). -/
def radioStep (ev : RadioEvent) (s : State) : State :=
  if radioEnabled s ev then (radioWrite s ev).updatePins else s

end Sys2Proof.Machine
end

