-- ==== Sys2Proof/Machine/Interrupt.lean ====
section
/-! DEFINITION. The interrupt service (R160, R258, R259), its two forms SAMPLE and LATCH (R161, R163), the
forced timeout (R194, R195), and what the other agents do between two transactions of a Host primitive
(R72). -/

namespace Sys2Proof.Machine

/-- SAMPLE: copy the two status registers into the shadow pair, one store each (R161). Its two reads have no gap: in a
service that is R75, in a word of its own the model's choice (DESIGN CHOICE, log 38). -/
def sampleTx (ag : Agent) (s : State) : Tx Unit :=
  (rdreg ag s.cfg.regIrq1 0#8 s).andThen fun f1 s1 =>
    let s2 : State := { s1 with latch := s1.latch.setShadow .one f1 }
    (rdreg ag s2.cfg.regIrq2 0#8 s2).andThen fun f2 s3 =>
      .done () { s3 with latch := s3.latch.setShadow .two f2 }

/-- LATCH: one read of each status register, the events found or-ed into the booleans (R163). Its two reads have no gap: in
a service that is R75; in a word of its own R76 says so for the Host and the Timer, and for the Radio it is the model's
choice (DESIGN CHOICE, log 38). -/
def latchTx (ag : Agent) (s : State) : Tx Unit :=
  (rdreg ag s.cfg.regIrq1 0#8 s).andThen fun f1 s1 =>
    (rdreg ag s1.cfg.regIrq2 0#8 s1).andThen fun f2 s2 =>
      .done () { s2 with latch := { s2.latch with bits := orEvents s2.cfg f1 f2 s2.latch.bits } }

/-- When IRQSVC is enabled (R258). -/
def irqEnabled (s : State) : Bool := s.pins.irqPend && !s.pins.inIsr && !s.port.busSelected

/-- The body of the service (R160). -/
def serviceBody (s : State) : State :=
  match s.cfg.family with
  | .h => (sampleTx .isr s).stateOr s
  | .s => (latchTx .isr s).stateOr s

/-- IRQSVC: entry, body, return, one indivisible step (R75, R160, R258, R259). Not enabled, it changes
nothing (log 7). A fault of its reads leaves `inIsr` 0 again (log 8). -/
def serviceIrq (s : State) : State :=
  if irqEnabled s then leaveIsr (serviceBody (enterIsr s)) else s

/-- When FORCETO is enabled (R276). -/
def forceEnabled (s : State) : Bool := !s.pins.inIsr && !s.port.busSelected

/-- FORCETO: one store, `latchTO` under family S (R194), the Timeout bit of the shadow under family H
(R195). Not enabled, it changes nothing (log 7). -/
def forceTimeout (s : State) : State :=
  if forceEnabled s then
    match s.cfg.family with
    | .s => { s with latch := { s.latch with bits := s.latch.bits.set .tmo true } }
    | .h =>
      { s with
        latch := s.latch.setShadow s.cfg.locTo.reg
          (s.latch.shadow s.cfg.locTo.reg ||| bitMask s.cfg.locTo.bit) }
  else s

/-- One step of another agent; a stopped Isr takes none (R10, log 6). -/
def envStep (s : State) : EnvStep → State
  | .irqsvc => if s.caller.isrStopped then s else serviceIrq s
  | .forceto => forceTimeout s
  | .radio ev => radioStep ev s

/-- The steps of the other agents that fall into the next gap between two transactions (R72, R211, log 9). -/
def preempt (s : State) : State :=
  match s.env.gaps with
  | [] => s
  | g :: gs => g.foldl envStep { s with env := { s.env with gaps := gs } }

/-- Read-modify-write of register `a`: two transactions, with the other agents' steps in between (R76, R140,
R176). -/
def rmw (ag : Agent) (a : Addr) (f : Byte → Byte) (s : State) : Tx Unit :=
  (rdreg ag a 0#8 s).andThen fun v s1 => wrreg ag a (f v) (preempt s1)

end Sys2Proof.Machine
end

