-- ==== Sys2Proof/Machine/PortOps.lean ====
section
/-! DEFINITION. Register-port operations: SEL, DESEL, XFER, DELAY (40_register_port.md), PWRON (R300), and the
Format B and F transactions with their table rows (R101). -/

namespace Sys2Proof.Machine

/-- The open transaction is closed: `busSelected <- 0` (R121). -/
def closeBus (s : State) : State :=
  { s with port := { s.port with busSelected := false, sent := [], got := [] } }

/-- SEL: open a bracket (R120). -/
def execSel (s : State) : Out State :=
  ifAdmitted [.host, .isr] s <|
    if s.port.busSelected then .refused .transactionOpen
    else .next { s with port := { s.port with busSelected := true, owner := s.env.agent, sent := [], got := [] } }

/-- The byte shifted back in the next slot of the open transaction (R122): free in the address slot, in the
data slots of a write, to an agent that may not read the register (log 31), while the chip settles (R310) and past
the one data slot of a register; else the byte read. No transaction and no Radio step falls inside a bracket (R70, R71,
log 10), so that value is also the one at the close; a byte given while the chip settles stays free, also where a DELAY
before DESEL ends the window (DESIGN CHOICE, log 36). -/
def slotValue (s : State) : Byte :=
  match s.port.sent with
  | [] => s.free8
  | ab :: data =>
    if writeBit ab ∨ s.port.settlePending ∨ s.env.agent ∉ s.cfg.readers (addrOf ab) then s.free8
    else if addrOf ab = s.cfg.regFifo then
      if s.cfg.present then (s.chip.fifo[data.length]?).getD s.free8 else s.free8
    else if data.isEmpty then readValue (addrOf ab) s
    else s.free8

/-- XFER b: send one byte, receive one (R122). -/
def execXfer (b : Byte) (s : State) : Out State :=
  ifAdmitted [.host, .isr] s <|
    if ¬ s.port.busSelected then .refused .noTransaction
    else if s.port.owner ≠ s.env.agent then .refused .transactionOpen
    else
      .next <|
        (({ s with
              port := { s.port with sent := s.port.sent ++ [b], got := s.port.got ++ [slotValue s] } } : State).drew
            1).answer (.byte (slotValue s))

/-- What the transaction `ab :: data` does, as a whole, when its bracket closes (R121, R71, R101, R107, R310).
Only the Host writes (R124); who may read is `Cfg.readers` (R24, R29, R30, log 31). -/
def closeEffect (ab : Byte) (data : List Byte) (s : State) : Tx Unit :=
  let a := addrOf ab
  if data = [] ∨ (a ≠ s.cfg.regFifo ∧ data.length ≠ 1) then .refused .badShape
  else if s.env.agent ∉ (if writeBit ab then [.host] else s.cfg.readers a) then .refused .wrongAgent
  else if s.port.settlePending then .raised (raise s.env.agent (.unsettledAccess a) s)
  else if writeBit ab then
    match (if a = s.cfg.regFifo then fifoPush data s else writeEffect a (data.headD 0#8) s) with
    | .ok s1 => .done () (s1.sentFrame (ab :: data) [])
    | .error r => .refused r
  else
    .done ()
      ((if a = s.cfg.regFifo then fifoPop data.length s else readEffect a s).sentFrame (ab :: data)
        (s.port.got.drop 1))

/-- DESEL: close the bracket; the effects of its transaction take place here (R121), and so does the settle fault, which a
DELAY inside the bracket averts (DESIGN CHOICE, log 36). A bracket in which nothing was transferred has none (log
11). -/
def execDesel (s : State) : Out State :=
  ifAdmitted [.host, .isr] s <|
    if ¬ s.port.busSelected then .refused .noTransaction
    else if s.port.owner ≠ s.env.agent then .refused .transactionOpen
    else
      match s.port.sent with
      | [] => .next (closeBus s)
      | ab :: data =>
        match closeEffect ab data s with
        | .done _ s1 => .next (closeBus s1)
        | .raised s1 => .next (closeBus s1)
        | .refused r => .refused r

/-- DELAY: end the settle window (R127), also inside an open raw bracket, which then does not fault at its DESEL (DESIGN
CHOICE, log 36). -/
def execDelay (s : State) : Out State :=
  ifAdmitted [.host] s (.next { s with port := { s.port with settlePending := false } })

/-- The output power PWRON draws: any integer in `P_MIN .. P_MAX` (R300, log 20). -/
def drawnPower (c : Cfg) (n : Nat) : Int :=
  c.pMin + ((Config.freeNat n % ((c.pMax - c.pMin).toNat + 1) : Nat) : Int)

/-- The registers after PWRON: drawn, the MODE field at `RESET_MODE`; the duration registers under family H
(R300). -/
def powerOnRegs (s : State) : State :=
  let n := s.env.draws
  let s1 := s.setReg s.cfg.regOpmode (putField (Config.freeByte n) s.cfg.modeMask (s.cfg.modeBits s.cfg.resetMode))
  let s2 := (s1.setReg s.cfg.regPinmapA (Config.freeByte (n + 3))).setReg s.cfg.regPinmapB (Config.freeByte (n + 4))
  match s.cfg.family with
  | .h => (s2.setReg s.cfg.regRxto1 (Config.freeByte (n + 5))).setReg s.cfg.regRxto2 (Config.freeByte (n + 6))
  | .s => s2

/-- The state PWRON leaves (R300). The latch, `fault` and `hostPos` are not touched. -/
def powerOn (s : State) : State :=
  let n := s.env.draws
  let s1 := powerOnRegs s
  ({ s1 with
      chip :=
        { s1.chip with
          hw := ⟨false, false, false⟩
          crcOk := Config.freeBool (n + 1)
          rssiRaw := Config.freeByte (n + 2)
          fifo := []
          outputPower := drawnPower s.cfg (n + 7) }
      pins := { level0 := false, level1 := false, irqPend := false, inIsr := false }
      port := { s1.port with settlePending := true, busSelected := false, sent := [], got := [] }
      seen := { s.seen with packetSent := false, timedOut := false } } : State).drew 8

/-- PWRON (R300). -/
def execPwron (s : State) : Out State := ifAdmitted [.host] s (.next (powerOn s))

/-! ## Formats F and B -/

/-- FIFOWR b1, ..., bn (R125). -/
def fifowrOp (bytes : List Byte) (s : State) : Out State := ifAdmitted [.host] s (fifowr s.env.agent bytes s).out

/-- FIFORD n (R126); a faulted one returns n draws (R310). -/
def fifordOp (fill : List Byte) (s : State) : Out State :=
  ifAdmitted [.host] s <|
    (fiford s.env.agent fill s).outWith .bytes
      (fun t => .bytes ((List.range fill.length).map fun i => Config.freeByte (t.env.draws + i))) fill.length

/-- RDREG a (R123), by an agent that may read the register (R24, R29, R30, log 31). A frame at `REG_FIFO` is FIFORD 1
(R101, log 15). -/
def rdregOp (a : Addr) (d : Byte) (s : State) : Out State :=
  if a = s.cfg.regFifo then fifordOp [d] s
  else ifAdmitted (s.cfg.readers a) s ((rdreg s.env.agent a d s).outWith .byte (fun t => .byte t.free8) 1)

/-- WRREG a, d (R124). A frame at `REG_FIFO` is FIFOWR of one byte (R101, log 15). -/
def wrregOp (a : Addr) (d : Byte) (s : State) : Out State :=
  if a = s.cfg.regFifo then fifowrOp [d] s
  else ifAdmitted [.host] s (wrreg s.env.agent a d s).out

/-- RDREG a, d (R123). -/
def execRdreg (a : Addr) (d : Byte) (s : State) : Out State := rdregOp a d s

/-- WRREG a, d (R124). -/
def execWrreg (a : Addr) (d : Byte) (s : State) : Out State := wrregOp a d s

/-- FIFOWR (R125). -/
def execFifowr (bytes : List Byte) (s : State) : Out State := fifowrOp bytes s

/-- FIFORD (R126). -/
def execFiford (fill : List Byte) (s : State) : Out State := fifordOp fill s

/-- RDREG 0x01, REG_OPMODE under `cfgH0` (R123, R68). -/
def execRdregOpmode (d : Byte) (s : State) : Out State := rdregOp 0x01#7 d s

/-- WRREG 0x01, REG_OPMODE under `cfgH0` (R124, R105). -/
def execWrregOpmode (d : Byte) (s : State) : Out State := wrregOp 0x01#7 d s

/-- RDREG 0x10, REG_VERSION under `cfgH0` (R123, R68). -/
def execRdregVersion (d : Byte) (s : State) : Out State := rdregOp 0x10#7 d s

/-- WRREG 0x10, REG_VERSION under `cfgH0` (R106). -/
def execWrregVersion (d : Byte) (s : State) : Out State := wrregOp 0x10#7 d s

/-- RDREG 0x11, REG_POWER under `cfgH0` (R123, R68). -/
def execRdregPower (d : Byte) (s : State) : Out State := rdregOp 0x11#7 d s

/-- WRREG 0x11, REG_POWER under `cfgH0` (R106). -/
def execWrregPower (d : Byte) (s : State) : Out State := wrregOp 0x11#7 d s

/-- RDREG 0x24, REG_RSSI under `cfgH0` (R123, R68). -/
def execRdregRssi (d : Byte) (s : State) : Out State := rdregOp 0x24#7 d s

/-- WRREG 0x24, REG_RSSI under `cfgH0` (R106). -/
def execWrregRssi (d : Byte) (s : State) : Out State := wrregOp 0x24#7 d s

/-- RDREG 0x25, REG_PINMAP_A under `cfgH0` (R123, R68). -/
def execRdregPinmapA (d : Byte) (s : State) : Out State := rdregOp 0x25#7 d s

/-- WRREG 0x25, REG_PINMAP_A under `cfgH0` (R124, R79). -/
def execWrregPinmapA (d : Byte) (s : State) : Out State := wrregOp 0x25#7 d s

/-- RDREG 0x26, REG_PINMAP_B under `cfgH0` (R123, R68). -/
def execRdregPinmapB (d : Byte) (s : State) : Out State := rdregOp 0x26#7 d s

/-- WRREG 0x26, REG_PINMAP_B under `cfgH0` (R124, R79). -/
def execWrregPinmapB (d : Byte) (s : State) : Out State := wrregOp 0x26#7 d s

/-- RDREG 0x27, REG_IRQ1 under `cfgH0` (R123, R66, R67). -/
def execRdregIrq1 (d : Byte) (s : State) : Out State := rdregOp 0x27#7 d s

/-- WRREG 0x27, REG_IRQ1 under `cfgH0` (R106). -/
def execWrregIrq1 (d : Byte) (s : State) : Out State := wrregOp 0x27#7 d s

/-- RDREG 0x28, REG_IRQ2 under `cfgH0` (R123, R66, R67). -/
def execRdregIrq2 (d : Byte) (s : State) : Out State := rdregOp 0x28#7 d s

/-- WRREG 0x28, REG_IRQ2 under `cfgH0` (R106). -/
def execWrregIrq2 (d : Byte) (s : State) : Out State := wrregOp 0x28#7 d s

/-- RDREG 0x2A, REG_RXTO1 under `cfgH0` (R123, R68). -/
def execRdregRxto1 (d : Byte) (s : State) : Out State := rdregOp 0x2A#7 d s

/-- WRREG 0x2A, REG_RXTO1 under `cfgH0` (R124, R106). -/
def execWrregRxto1 (d : Byte) (s : State) : Out State := wrregOp 0x2A#7 d s

/-- RDREG 0x2B, REG_RXTO2 under `cfgH0` (R123, R68). -/
def execRdregRxto2 (d : Byte) (s : State) : Out State := rdregOp 0x2B#7 d s

/-- WRREG 0x2B, REG_RXTO2 under `cfgH0` (R124, R106). -/
def execWrregRxto2 (d : Byte) (s : State) : Out State := wrregOp 0x2B#7 d s

end Sys2Proof.Machine
end

