-- ==== Sys2Proof/Machine/ModeOps.lean ====
section
/-! DEFINITION. The mode controller: SETMODE (R140 to R147). -/

namespace Sys2Proof.Machine

/-- SETMODE m: read-modify-write of the MODE field of `REG_OPMODE` (R140); leaving Sleep sets `settlePending`
(R141, in `writeOpmode`). -/
def setmodeOp (m : Mode) (s : State) : Out State :=
  ifAdmitted [.host] s
    (rmw s.env.agent s.cfg.regOpmode (fun v => putField v s.cfg.modeMask (s.cfg.modeBits m)) s).out

/-- SETMODE Sleep (R142). -/
def execSetmodeSleep (s : State) : Out State := setmodeOp .sleep s

/-- SETMODE Standby (R143). -/
def execSetmodeStandby (s : State) : Out State := setmodeOp .standby s

/-- SETMODE FrequencySynth (R144). -/
def execSetmodeFrequencySynth (s : State) : Out State := setmodeOp .frequencySynth s

/-- SETMODE Transmit (R145). -/
def execSetmodeTransmit (s : State) : Out State := setmodeOp .transmit s

/-- SETMODE Receive (R146). -/
def execSetmodeReceive (s : State) : Out State := setmodeOp .receive s

end Sys2Proof.Machine
end

