-- ==== Sys2Proof/Machine/LatchOps.lean ====
section
/-! DEFINITION. The interrupt-flag latch and multiplexer: IRQSVC, SAMPLE, CLEAR, LATCH, CLRPR, CLRPS, CLRTO,
CLRF, RDF, MAPPR, MAPPS, MAPTO (42_irq_latch.md). -/

namespace Sys2Proof.Machine

/-- CLEAR: both shadow bytes 0 (R162). -/
def clearShadows (s : State) : State := { s with latch := { s.latch with shadow1 := 0#8, shadow2 := 0#8 } }

/-- One latch boolean false (R164, R165, R166). -/
def clearBit (e : Event) (s : State) : State :=
  { s with latch := { s.latch with bits := s.latch.bits.set e false } }

/-- CLRF e on the latch: all three flags under family H, one under family S (R167). -/
def clearFlag (e : Event) (s : State) : State :=
  match s.cfg.family with
  | .h => clearShadows s
  | .s => clearBit e s

/-- MAP: read-modify-write of a pin-map field (R176). -/
def mapTx (ag : Agent) (a : Addr) (mask sel : Byte) (s : State) : Tx Unit := rmw ag a (fun v => putField v mask sel) s

/-- MAPTO as a transaction pair (R175), shared with TOEN. -/
def maptoTx (ag : Agent) (s : State) : Tx Unit := mapTx ag s.cfg.regPinmapB s.cfg.pin1Mask s.cfg.pin1SelTo s

/-- IRQSVC (R160). -/
def execIrqsvc (s : State) : Out State := ifAdmitted [.isr] s (.next (serviceIrq s))

/-- SAMPLE (R161). That the Isr may also issue it as a word of its own (R100), outside a service and with no request
pending, is the model's choice (DESIGN CHOICE, log 32), and so is that no step of another agent falls between the two
reads of that word (DESIGN CHOICE, log 38). -/
def execSample (s : State) : Out State := ifAdmitted [.isr] s (ofFamily .h s (sampleTx s.env.agent s).out)

/-- CLEAR (R162). -/
def execClear (s : State) : Out State := ifAdmitted [.host] s (ofFamily .h s (.next (clearShadows s)))

/-- LATCH (R163). That the Isr may also issue it as a word of its own is the model's choice (DESIGN CHOICE, log 32), and so
is that no Radio step falls between the two reads of that word (DESIGN CHOICE, log 38). -/
def execLatch (s : State) : Out State := ifAdmitted [.isr] s (ofFamily .s s (latchTx s.env.agent s).out)

/-- CLRPR (R164). -/
def execClrpr (s : State) : Out State := ifAdmitted [.host] s (ofFamily .s s (.next (clearBit .pr s)))

/-- CLRPS (R165). -/
def execClrps (s : State) : Out State := ifAdmitted [.host] s (ofFamily .s s (.next (clearBit .ps s)))

/-- CLRTO (R166). -/
def execClrto (s : State) : Out State := ifAdmitted [.host] s (ofFamily .s s (.next (clearBit .tmo s)))

/-- CLRF e (R167). -/
def clrfOp (e : Event) (s : State) : Out State := ifAdmitted [.host] s (.next (clearFlag e s))

/-- CLRF PR (R167). -/
def execClrfPr (s : State) : Out State := clrfOp .pr s

/-- CLRF PS (R167). -/
def execClrfPs (s : State) : Out State := clrfOp .ps s

/-- CLRF TO (R167). -/
def execClrfTo (s : State) : Out State := clrfOp .tmo s

/-- RDF e: answer the flag view, nothing else (R168, R35). -/
def rdfOp (e : Event) (s : State) : Out State := ifAdmitted [.host] s (.next (s.answer (.flag (flagView s e))))

/-- RDF PR (R168). -/
def execRdfPr (s : State) : Out State := rdfOp .pr s

/-- RDF PS (R168). -/
def execRdfPs (s : State) : Out State := rdfOp .ps s

/-- RDF TO (R168). -/
def execRdfTo (s : State) : Out State := rdfOp .tmo s

/-- MAPPR: PayloadReady onto pin 0 (R173). -/
def execMappr (s : State) : Out State :=
  ifAdmitted [.host] s (mapTx s.env.agent s.cfg.regPinmapA s.cfg.pin0Mask s.cfg.pin0SelPr s).out

/-- MAPPS: PacketSent onto pin 0 (R174). -/
def execMapps (s : State) : Out State :=
  ifAdmitted [.host] s (mapTx s.env.agent s.cfg.regPinmapA s.cfg.pin0Mask s.cfg.pin0SelPs s).out

/-- MAPTO: Timeout onto pin 1 (R175). -/
def execMapto (s : State) : Out State := ifAdmitted [.host] s (maptoTx s.env.agent s).out

end Sys2Proof.Machine
end

