-- ==== Sys2Proof/Machine/TimeoutOps.lean ====
section
/-! DEFINITION. The receive-timeout arbiter: TOEN, FORCETO, PWRFULL (43_timeout_arbiter.md). -/

namespace Sys2Proof.Machine

/-- TOEN under family H: MAPTO, then both duration registers, on or off (R191). -/
def toenH (on : Bool) (s : State) : Tx Unit :=
  (maptoTx s.env.agent s).andThen fun _ s1 =>
    (wrreg s.env.agent s.cfg.regRxto1 (if on then s.cfg.toOn1 else 0x00#8) (preempt s1)).andThen fun _ s2 =>
      wrreg s.env.agent s.cfg.regRxto2 (if on then s.cfg.toOn2 else 0x00#8) (preempt s2)

/-- TOEN under family S: MAPTO, then CLRTO, whatever `on` is (R192). -/
def toenS (s : State) : Tx Unit :=
  (maptoTx s.env.agent s).andThen fun _ s1 => .done () (clearBit .tmo (preempt s1))

/-- TOEN on (R190). -/
def toenOp (on : Bool) (s : State) : Out State :=
  ifAdmitted [.host] s <|
    match s.cfg.family with
    | .h => (toenH on s).out
    | .s => (toenS s).out

/-- TOEN off (R190). -/
def execToenOff (s : State) : Out State := toenOp false s

/-- TOEN on (R190). -/
def execToenOn (s : State) : Out State := toenOp true s

/-- FORCETO (R194, R195). -/
def execForceto (s : State) : Out State := ifAdmitted [.timer] s (.next (forceTimeout s))

/-- A write of `REG_POWER` that sets the abstract power `x`; its data byte is free (R197, R225, log 22). -/
def writePower (ag : Agent) (x : Int) (s : State) : Tx Unit :=
  bracket ag s.cfg.regPower s <|
    .done ()
      ((({ s with chip := { s.chip with outputPower := x } } : State).drew 1).sentFrame
        [addrByte true s.cfg.regPower, s.free8] [])

/-- PWRFULL: restore the fallback output power (R197). -/
def execPwrfull (s : State) : Out State := ifAdmitted [.host] s (writePower s.env.agent s.cfg.pFallback s).out

end Sys2Proof.Machine
end

