-- ==== Sys2Proof/Machine/Dispatch.lean ====
section
/-! DEFINITION. exec: one arm per instruction, each one call of its meaning. -/

namespace Sys2Proof.Machine

def exec (i : Instr) (s : State) : Host.Outcome State Fault Refusal :=
  match i with
  | .sel => Sys2Proof.Machine.execSel s
  | .desel => Sys2Proof.Machine.execDesel s
  | .xfer b => Sys2Proof.Machine.execXfer b s
  | .delay => Sys2Proof.Machine.execDelay s
  | .pwron => Sys2Proof.Machine.execPwron s
  | .setmodeSleep => Sys2Proof.Machine.execSetmodeSleep s
  | .setmodeStandby => Sys2Proof.Machine.execSetmodeStandby s
  | .setmodeFrequencySynth => Sys2Proof.Machine.execSetmodeFrequencySynth s
  | .setmodeTransmit => Sys2Proof.Machine.execSetmodeTransmit s
  | .setmodeReceive => Sys2Proof.Machine.execSetmodeReceive s
  | .irqsvc => Sys2Proof.Machine.execIrqsvc s
  | .sample => Sys2Proof.Machine.execSample s
  | .clear => Sys2Proof.Machine.execClear s
  | .latch => Sys2Proof.Machine.execLatch s
  | .clrpr => Sys2Proof.Machine.execClrpr s
  | .clrps => Sys2Proof.Machine.execClrps s
  | .clrto => Sys2Proof.Machine.execClrto s
  | .clrfPr => Sys2Proof.Machine.execClrfPr s
  | .clrfPs => Sys2Proof.Machine.execClrfPs s
  | .clrfTo => Sys2Proof.Machine.execClrfTo s
  | .rdfPr => Sys2Proof.Machine.execRdfPr s
  | .rdfPs => Sys2Proof.Machine.execRdfPs s
  | .rdfTo => Sys2Proof.Machine.execRdfTo s
  | .mappr => Sys2Proof.Machine.execMappr s
  | .mapps => Sys2Proof.Machine.execMapps s
  | .mapto => Sys2Proof.Machine.execMapto s
  | .toenOff => Sys2Proof.Machine.execToenOff s
  | .toenOn => Sys2Proof.Machine.execToenOn s
  | .forceto => Sys2Proof.Machine.execForceto s
  | .pwrfull => Sys2Proof.Machine.execPwrfull s
  | .rdreg a d => Sys2Proof.Machine.execRdreg a d s
  | .wrreg a d => Sys2Proof.Machine.execWrreg a d s
  | .fifowr bytes => Sys2Proof.Machine.execFifowr bytes s
  | .fiford fill => Sys2Proof.Machine.execFiford fill s
  | .rdregOpmode d => Sys2Proof.Machine.execRdregOpmode d s
  | .wrregOpmode d => Sys2Proof.Machine.execWrregOpmode d s
  | .rdregVersion d => Sys2Proof.Machine.execRdregVersion d s
  | .wrregVersion d => Sys2Proof.Machine.execWrregVersion d s
  | .rdregPower d => Sys2Proof.Machine.execRdregPower d s
  | .wrregPower d => Sys2Proof.Machine.execWrregPower d s
  | .rdregRssi d => Sys2Proof.Machine.execRdregRssi d s
  | .wrregRssi d => Sys2Proof.Machine.execWrregRssi d s
  | .rdregPinmapA d => Sys2Proof.Machine.execRdregPinmapA d s
  | .wrregPinmapA d => Sys2Proof.Machine.execWrregPinmapA d s
  | .rdregPinmapB d => Sys2Proof.Machine.execRdregPinmapB d s
  | .wrregPinmapB d => Sys2Proof.Machine.execWrregPinmapB d s
  | .rdregIrq1 d => Sys2Proof.Machine.execRdregIrq1 d s
  | .wrregIrq1 d => Sys2Proof.Machine.execWrregIrq1 d s
  | .rdregIrq2 d => Sys2Proof.Machine.execRdregIrq2 d s
  | .wrregIrq2 d => Sys2Proof.Machine.execWrregIrq2 d s
  | .rdregRxto1 d => Sys2Proof.Machine.execRdregRxto1 d s
  | .wrregRxto1 d => Sys2Proof.Machine.execWrregRxto1 d s
  | .rdregRxto2 d => Sys2Proof.Machine.execRdregRxto2 d s
  | .wrregRxto2 d => Sys2Proof.Machine.execWrregRxto2 d s

end Sys2Proof.Machine
end

