-- ==== Sys2Proof/Machine/Expansion.lean ====
section
/-! DEFINITION. The pseudo-instructions (44_pipelines.md): each a list of Host statements over the primitives'
own meanings, with the Host's place kept in `hostPos` (R23, R42, R211). One statement is one Host turn, so the
other agents may act between any two (log 23). -/

namespace Sys2Proof.Machine

/-! ## The Host's position -/

/-- Change the frame on top of `hostPos`; nothing where a fault has ended the expansion (R211). -/
def setTop (g : Frame → Frame) (s : State) : State :=
  match s.caller.hostPos with
  | [] => s
  | f :: fs => { s with caller := { s.caller with hostPos := g f :: fs } }

/-- Go to statement `k`. -/
def goto (k : Nat) (s : State) : State := setTop (fun f => { f with idx := k }) s

/-- Bind locals of the top frame. -/
def bindTop (g : Locals → Locals) (s : State) : State := setTop (fun f => { f with locals := g f.locals }) s

/-- Push a fresh frame for `p`. -/
def pushFrame (p : Pseudo) (s : State) : State :=
  { s with caller := { s.caller with hostPos := ⟨p, 0, .fresh⟩ :: s.caller.hostPos } }

/-- Go on at statement `k` once the pseudo-instruction `p` has returned. -/
def callThen (p : Pseudo) (k : Nat) (s : State) : State := pushFrame p (goto k s)

/-- Return `r`: pop the frame; its locals are dead (R211). -/
def ret (r : Result) (s : State) : State :=
  { s with caller := { s.caller with hostPos := s.caller.hostPos.tail, result := r } }

/-- Continue with the state an operation leaves. -/
def onNext (f : State → State) (o : Out State) : Out State :=
  match o with
  | .next s => .next (f s)
  | .fault r => .fault r
  | .refused r => .refused r

/-- Do a primitive, then go to statement `k`. -/
def thenGoto (k : Nat) (o : Out State) : Out State := onNext (goto k) o

/-- The byte the last operation returned to the Host. -/
def resultByte (s : State) : Byte :=
  match s.caller.result with
  | .byte b => b
  | .bytes bs => bs.headD 0#8
  | _ => 0#8

/-- The boolean the last operation returned to the Host. -/
def resultFlag (s : State) : Bool :=
  match s.caller.result with
  | .flag b => b
  | _ => false

/-- WAITF's snapshot, as returned to the Host. -/
def resultFlags (s : State) : List Bool :=
  match s.caller.result with
  | .flags bs => bs
  | _ => []

/-! ## The expansions -/

/-- WAITF c: read the flags in order; return the snapshot if one is true, else start again: the hold (R210,
R223). -/
def stmtWaitf (first : Event) (rest : List Event) (f : Frame) (s : State) : Out State :=
  match (first :: rest)[f.idx]? with
  | some e =>
    onNext (fun t => goto (f.idx + 1) (bindTop (fun l => { l with flags := l.flags ++ [resultFlag t] }) t)) (rdfOp e s)
  | none =>
    if f.locals.flags.any id then .next (ret (.flags f.locals.flags) s)
    else .next (goto 0 (bindTop (fun _ => .fresh) s))

/-- INIT (R212): PWRON, DELAY, the identification test, the configuration writes (outside the block), the
power default, the latch cleared. A failed one is remembered (R262, log 24). -/
def stmtInit (f : Frame) (s : State) : Out State :=
  match f.idx with
  | 0 => thenGoto 1 (execPwron { s with caller := { s.caller with initFailed := false } })
  | 1 => thenGoto 2 (execDelay s)
  | 2 => onNext (fun t => goto 3 (bindTop (fun l => { l with v := resultByte t }) t)) (rdregOp s.cfg.regVersion 0#8 s)
  | 3 =>
    if f.locals.v = s.cfg.versionInvalid then
      .next (ret (.success false) { s with caller := { s.caller with initFailed := true } })
    else .next (goto 4 s)
  | 4 => .next (goto 5 s)
  | 5 => .next (goto 6 { s with chip := { s.chip with outputPower := s.cfg.pFallback } })
  | 6 =>
    match s.cfg.family with
    | .h => thenGoto 9 (execClear s)
    | .s => thenGoto 7 (execClrpr s)
  | 7 => thenGoto 8 (execClrps s)
  | 8 => thenGoto 9 (execClrto s)
  | _ => .next (ret (.success true) s)

/-- SLEEP (R213). -/
def stmtSleep (f : Frame) (s : State) : Out State :=
  match f.idx with
  | 0 => thenGoto 1 (execSetmodeSleep s)
  | _ => .next (ret .none s)

/-- WAKE (R214). -/
def stmtWake (f : Frame) (s : State) : Out State :=
  match f.idx with
  | 0 => thenGoto 1 (execSetmodeStandby s)
  | 1 => thenGoto 2 (execDelay s)
  | _ => .next (ret .none s)

/-- STARTRX t (R215). -/
def stmtStartrx (t : Bool) (f : Frame) (s : State) : Out State :=
  match f.idx with
  | 0 => thenGoto 1 (toenOp t s)
  | 1 => thenGoto 2 (execMappr s)
  | 2 => thenGoto 3 (execClrfPr s)
  | 3 => thenGoto 4 (execSetmodeReceive s)
  | _ => .next (ret .none s)

/-- The consumption clear of family H; nothing under family S (R221). -/
def consume (e : Event) (k : Nat) (s : State) : Out State :=
  match s.cfg.family with
  | .h => thenGoto k (clrfOp e s)
  | .s => .next (goto k s)

/-- POLLRX (R217): the negative poll does nothing; the positive one reads RSSI and a fresh status byte, then
sets Standby. -/
def stmtPollrx (f : Frame) (s : State) : Out State :=
  match f.idx with
  | 0 => onNext (fun t => goto 1 (bindTop (fun l => { l with flags := [resultFlag t] }) t)) (execRdfPr s)
  | 1 =>
    if f.locals.flags.headD false then .next (goto 2 s)
    else .next (ret (.payloadFlags false s.cfg.rssiInvalid false) s)
  | 2 => consume .pr 3 s
  | 3 => onNext (fun t => goto 4 (bindTop (fun l => { l with q := resultByte t }) t)) (rdregOp s.cfg.regRssi 0#8 s)
  | 4 =>
    onNext (fun t => goto 5 (bindTop (fun l => { l with v := resultByte t }) t))
      (rdregOp (s.cfg.regIrq s.cfg.locCrc.reg) 0#8 s)
  | 5 => thenGoto 6 (execSetmodeStandby s)
  | _ => .next (ret (.payloadFlags true f.locals.q (bitOf f.locals.v s.cfg.locCrc.bit)) s)

/-- READPL's payload length: the length byte less one for the address byte (R230). -/
def plenOf (f : Frame) : Nat := f.locals.v.toNat - 1

/-- READPL's buffer after byte `b`: bytes beyond the capacity are drained and dropped (R230). -/
def keepByte (cap : Nat) (b : Byte) (l : Locals) : Locals :=
  { l with i := l.i + 1, buffer := if l.i < min (l.v.toNat - 1) cap then l.buffer ++ [b] else l.buffer }

/-- READPL cap (R218, R230); a length byte 0 is MalformedLength (R266). -/
def stmtReadpl (cap : Nat) (f : Frame) (s : State) : Out State :=
  match f.idx with
  | 0 => onNext (fun t => goto 1 (bindTop (fun l => { l with v := resultByte t }) t)) (fifordOp [0#8] s)
  | 1 => if f.locals.v = 0#8 then .next (raise .host .malformedLength s) else .next (goto 2 s)
  | 2 => thenGoto 3 (fifordOp [0#8] s)
  | _ =>
    if f.locals.i < plenOf f then onNext (fun t => bindTop (keepByte cap (resultByte t)) t) (fifordOp [0#8] s)
    else .next (ret (.count (min (plenOf f) cap) f.locals.buffer) s)

/-- RXPL cap, t (R219): the snapshot decides, Timeout over PayloadReady (R196); the timeout outcome (R200). -/
def stmtRxpl (cap : Nat) (t : Bool) (f : Frame) (s : State) : Out State :=
  match f.idx with
  | 0 => .next (callThen (.startrx t) 1 s)
  | 1 => .next (callThen (.waitf .pr [.tmo]) 2 s)
  | 2 => .next (goto 3 (bindTop (fun l => { l with tmo := (resultFlags s)[1]?.getD false }) s))
  | 3 => consume .pr 4 s
  | 4 => thenGoto 5 (execSetmodeStandby s)
  | 5 => thenGoto (if f.locals.tmo then 6 else 9) (execToenOff s)
  | 6 => thenGoto 7 (execPwrfull s)
  | 7 =>
    .next (goto 8 (({ s with chip := { s.chip with fifo := Config.freeBytes s.env.draws } } : State).drew 1))
  | 8 => .next (ret (.count 0 []) s)
  | 9 => .next (callThen (.readpl cap) 10 s)
  | _ => .next (ret s.caller.result s)

/-- TXPL payload, dest (R220). -/
def stmtTxpl (payload : List Byte) (dest : Byte) (f : Frame) (s : State) : Out State :=
  match f.idx with
  | 0 => thenGoto 1 (fifowrOp (s.cfg.encodeFrame payload dest) s)
  | 1 => thenGoto 2 (execMapps s)
  | 2 => thenGoto 3 (execClrfPs s)
  | 3 => thenGoto 4 (execSetmodeTransmit s)
  | 4 => .next (callThen (.waitf .ps []) 5 s)
  | 5 => consume .ps 6 s
  | 6 => thenGoto 7 (execSetmodeStandby s)
  | _ => .next (ret (.count (s.cfg.payloadCount payload) []) s)

/-- The write of the node-address register, outside the block: no state of the block changes (R224). -/
def writeNodeAddress (addr : Byte) (s : State) : Tx Unit :=
  bracket .host Config.nodeAddressRegister s
    (.done () (s.sentFrame [addrByte true Config.nodeAddressRegister, addr] []))

/-- SETADDR addr (R224). -/
def stmtSetaddr (addr : Byte) (f : Frame) (s : State) : Out State :=
  match f.idx with
  | 0 => thenGoto 1 (ifAdmitted [.host] s (writeNodeAddress addr s).out)
  | _ => .next (ret .none s)

/-- SETPWR x: clamp to the family's bounds (R225). -/
def stmtSetpwr (x : Int) (f : Frame) (s : State) : Out State :=
  match f.idx with
  | 0 => thenGoto 1 (ifAdmitted [.host] s (writePower .host (clampInt x s.cfg.pMin s.cfg.pMax) s).out)
  | _ => .next (ret .none s)

/-- The power that a read of `REG_POWER` stands for (R226); an absent chip answers any (R148, log 34). -/
def powerRead (s : State) : Int := if s.cfg.present then s.chip.outputPower else Config.freeInt s.env.draws

/-- GETPWR: one read of `REG_POWER`, the abstract power returned (R226). -/
def stmtGetpwr (f : Frame) (s : State) : Out State :=
  match f.idx with
  | 0 => thenGoto 1 (rdregOp s.cfg.regPower 0#8 s)
  | _ => .next (ret (.power (powerRead s)) s)

/-- One statement of the expansion on top of `hostPos`. -/
def stmt (f : Frame) (s : State) : Out State :=
  match f.op with
  | .waitf first rest => stmtWaitf first rest f s
  | .init _ _ _ => stmtInit f s
  | .sleep => stmtSleep f s
  | .wake => stmtWake f s
  | .startrx t => stmtStartrx t f s
  | .pollrx => stmtPollrx f s
  | .readpl cap => stmtReadpl cap f s
  | .rxpl cap t => stmtRxpl cap t f s
  | .txpl payload dest => stmtTxpl payload dest f s
  | .setaddr addr => stmtSetaddr addr f s
  | .setpwr x => stmtSetpwr x f s
  | .getpwr => stmtGetpwr f s

/-- The Host is held neither by a fault (R10) nor by a service in progress (R72, R259). An open raw bracket, its own or the
Isr's, does not hold it (DESIGN CHOICE, log 36). -/
def hostMayAct (s : State) : Bool := !s.caller.hostStopped && !s.pins.inIsr

/-- A Host turn: the next statement of the expansion, with the pre-emptions `gaps` between its transactions;
nothing where the Host is between operations or may not act. -/
def hostTurn (gaps : List (List EnvStep)) (s : State) : Out State :=
  if hostMayAct s then
    match s.caller.hostPos with
    | [] => .next s
    | f :: _ => stmt f { s with env := { s.env with agent := .host, gaps := gaps } }
  else .next s

/-- The Host calls a public operation; after a failed INIT only another INIT (R262, R267 (h)). -/
def beginCall (p : Pseudo) (s : State) : Out State :=
  match p with
  | .init _ _ _ => .next (pushFrame p s)
  | .waitf _ _ | .sleep | .wake | .startrx _ | .pollrx | .readpl _ | .rxpl _ _ | .txpl _ _ | .setaddr _
  | .setpwr _ | .getpwr => if s.caller.initFailed then .refused .initFailed else .next (pushFrame p s)

end Sys2Proof.Machine
end

