-- ==== Sys2Proof/Machine/Fetch.lean ====
section
/-! DEFINITION. What `step` does with each entry of the schedule (R9, R71; log 2). -/

namespace Sys2Proof.Machine

/-- The refusal that bytes which spell no operation give (R267 (a), R104, R107). -/
def rejectRefusal : Reject → Refusal
  | .reservedCommand | .notOneWord => .reservedCommand
  | .emptyTransaction | .shortTransaction | .longTransaction => .badShape

/-- An agent that has stopped on a fault takes no step; the Host is suspended during a service (R10, R72). An open raw
bracket holds no agent back: what may be done inside it is settled operation by operation (DESIGN CHOICE, log 36). -/
def mayAct (ag : Agent) (s : State) : Bool :=
  match ag with
  | .host => hostMayAct s
  | .isr => !s.caller.isrStopped
  | .timer | .radio => true

/-- The schedule without its first entry. -/
def dropInput (s : State) : State := { s with env := { s.env with input := s.env.input.tail } }

/-- The operation in hand: its issuer, and the pre-emptions between its transactions. -/
def handOver (ag : Agent) (gaps : List (List EnvStep)) (s : State) : State :=
  { s with env := { s.env with agent := ag, gaps := gaps } }

/-- Decode the bytes an agent handed over and execute them (R90). -/
def runBytes (port : Port) (bytes : List Byte) (s : State) : Out State :=
  match decode s.cfg port bytes with
  | .ok i => exec i s
  | .error r => .refused (rejectRefusal r)

/-- An operation entry. A Host operation waits while the Host is inside an expansion; the turn of an agent
that may not act passes. -/
def opTurn (ag : Agent) (port : Port) (bytes : List Byte) (gaps : List (List EnvStep)) (s : State) : Out State :=
  if mayAct ag s = false then .next (dropInput s)
  else if ag = .host ∧ s.caller.hostPos ≠ [] then hostTurn [] s
  else runBytes port bytes (handOver ag gaps (dropInput s))

/-- A call entry; it waits while the Host is inside an expansion. -/
def callTurn (p : Pseudo) (s : State) : Out State :=
  if hostMayAct s = false then .next (dropInput s)
  else if s.caller.hostPos ≠ [] then hostTurn [] s
  else beginCall p (dropInput s)

/-- The first entry of the schedule; with none left the Host goes on with its expansion, if it is in one. -/
def turn (s : State) : Out State :=
  match s.env.input with
  | [] => hostTurn [] s
  | .op ag port bytes gaps :: _ => opTurn ag port bytes gaps s
  | .call p :: _ => callTurn p s
  | .host gaps :: _ => hostTurn gaps (dropInput s)
  | .radio ev :: _ => .next (radioStep ev (dropInput s))

/-- The issuing agent of an operation is ready to act: the Host between operations and not held, the Isr not
stopped. -/
def readyFor (ag : Agent) (s : State) : State :=
  match ag with
  | .host =>
    { s with
      caller := { s.caller with hostPos := [], hostStopped := false }
      pins := { s.pins with inIsr := false } }
  | .isr => { s with caller := { s.caller with isrStopped := false } }
  | .timer | .radio => s

/-- Put an operation at the front of the schedule, issued by `ag`. -/
def schedule (ag : Agent) (port : Port) (bytes : List Byte) (s : State) : State :=
  { s with env := { s.env with input := .op ag port bytes [] :: s.env.input } }

/-- The agent that issues bytes: the first that R100 lists for the operation they spell, else the Host. -/
def issuerOf (c : Cfg) (port : Port) (bytes : List Byte) : Agent :=
  ((decoded? c port bytes).map Instr.issuer).getD .host

end Sys2Proof.Machine
end

