-- ==== Sys2Proof/Machine/Step.lean ====
section
/-! DEFINITION. step, and the state in which the next step runs a given table word. -/

namespace Sys2Proof.Machine

/-- One step: the next entry of the schedule takes effect (R9, R71, log 2). -/
def step (s : State) : Host.Outcome State Fault Refusal := turn s

/-- `s` with the operation of a table word handed over next by the agent it belongs to: the entry at the front
of the schedule, and that agent ready to act (log 13). -/
def State.withFetchWord (s : State) (nbits w : Nat) : State :=
  let b := tableBytes nbits w
  let ag := issuerOf s.cfg b.1 b.2
  schedule ag b.1 b.2 (readyFor ag s)

end Sys2Proof.Machine
end

