-- ==== Sys2Proof/Safety.lean ====
section
/-! DEFINITION. What claims are stated in: when an agent may issue an operation, when the port is ready, the
invariant of the machine, what a step must not lose, and the fairness premises of R272, which are never
assumed by default. -/

namespace Sys2Proof.Machine

/-- The Host issues the operation in hand, and no INIT has failed (R169, R262). -/
abbrev HostMay (s : State) : Prop := s.env.agent = .host ∧ s.caller.initFailed = false

/-- The Host or the Isr issues the operation in hand (R100); the Host only while no INIT has failed. -/
abbrev HostOrIsrMay (s : State) : Prop := HostMay s ∨ s.env.agent = .isr

/-- The agent of the operation in hand may read register `a`: the Host, or the Isr where no rule keeps the register
for the Host (R24, R29, R30; log 31). -/
abbrev MayRead (s : State) (a : Addr) : Prop :=
  HostMay s ∨ (s.env.agent = .isr ∧ s.cfg.hostOnly a = false)

/-- No bracket is open and the chip has settled: a register transaction goes through (R107, R310). -/
abbrev PortReady (s : State) : Prop := s.port.busSelected = false ∧ s.port.settlePending = false

/-- The SETMODE instruction of a mode (R140). -/
def setmodeInstr : Mode → Instr
  | .sleep => .setmodeSleep
  | .standby => .setmodeStandby
  | .frequencySynth => .setmodeFrequencySynth
  | .transmit => .setmodeTransmit
  | .receive => .setmodeReceive

/-- The CLRF instruction of an event (R167). -/
def clrfInstr : Event → Instr
  | .pr => .clrfPr
  | .ps => .clrfPs
  | .tmo => .clrfTo

/-- The RDF instruction of an event (R168). -/
def rdfInstr : Event → Instr
  | .pr => .rdfPr
  | .ps => .rdfPs
  | .tmo => .rdfTo

/-- The family S instruction that clears one latch boolean (R164, R165, R166). -/
def clrInstr : Event → Instr
  | .pr => .clrpr
  | .ps => .clrps
  | .tmo => .clrto

/-- The TOEN instruction of a boolean (R190). -/
def toenInstr : Bool → Instr
  | false => .toenOff
  | true => .toenOn

/-- The MAP instruction of an event (R173, R174, R175). -/
def mapInstr : Event → Instr
  | .pr => .mappr
  | .ps => .mapps
  | .tmo => .mapto

/-- The pin-map register, field mask and selector a MAP instruction writes (R173 to R175). -/
def mapField (c : Cfg) : Event → Addr × Byte × Byte
  | .pr => (c.regPinmapA, c.pin0Mask, c.pin0SelPr)
  | .ps => (c.regPinmapA, c.pin0Mask, c.pin0SelPs)
  | .tmo => (c.regPinmapB, c.pin1Mask, c.pin1SelTo)

/-- The Format B reads: the register number and the filler (R101). -/
def readOf : Instr → Option (Addr × Byte)
  | .rdreg a d => some (a, d)
  | .rdregOpmode d => some (0x01#7, d)
  | .rdregVersion d => some (0x10#7, d)
  | .rdregPower d => some (0x11#7, d)
  | .rdregRssi d => some (0x24#7, d)
  | .rdregPinmapA d => some (0x25#7, d)
  | .rdregPinmapB d => some (0x26#7, d)
  | .rdregIrq1 d => some (0x27#7, d)
  | .rdregIrq2 d => some (0x28#7, d)
  | .rdregRxto1 d => some (0x2A#7, d)
  | .rdregRxto2 d => some (0x2B#7, d)
  | _ => none

/-- The Format B writes: the register number and the data byte (R101). -/
def writeOf : Instr → Option (Addr × Byte)
  | .wrreg a d => some (a, d)
  | .wrregOpmode d => some (0x01#7, d)
  | .wrregVersion d => some (0x10#7, d)
  | .wrregPower d => some (0x11#7, d)
  | .wrregRssi d => some (0x24#7, d)
  | .wrregPinmapA d => some (0x25#7, d)
  | .wrregPinmapB d => some (0x26#7, d)
  | .wrregIrq1 d => some (0x27#7, d)
  | .wrregIrq2 d => some (0x28#7, d)
  | .wrregRxto1 d => some (0x2A#7, d)
  | .wrregRxto2 d => some (0x2B#7, d)
  | _ => none

/-- The register a Host instruction's first transaction goes to, for the instructions built on transactions
(R268). -/
def transactionAddr (c : Cfg) : Instr → Option Addr
  | .setmodeSleep | .setmodeStandby | .setmodeFrequencySynth | .setmodeTransmit | .setmodeReceive =>
    some c.regOpmode
  | .mappr | .mapps => some c.regPinmapA
  | .mapto | .toenOff | .toenOn => some c.regPinmapB
  | .pwrfull => some c.regPower
  | .fifowr _ | .fiford _ => some c.regFifo
  | i => ((readOf i).orElse fun _ => writeOf i).map Prod.fst

/-- The state after the read transaction that opens a read-modify-write of a stored register, when the other
agents have taken their steps in the gap (R72): what the write then starts from. -/
def atGap (a : Addr) (s : State) : State := preempt ((s.drew 1).sentFrame [addrByte false a, 0#8] [readValue a s])

/-- The recorded pin levels are the pin functions (R38, R255). -/
abbrev PinsCurrent (s : State) : Prop := s.pins.level0 = s.pinFn0 ∧ s.pins.level1 = s.pinFn1

/-- From `s` to `t` the pins have been recomputed once (R256): the levels are those of `t`, and a request is pending
where one was or where a level rose. -/
abbrev PinsUpdated (s t : State) : Prop :=
  t.pins.level0 = t.pinFn0 ∧ t.pins.level1 = t.pinFn1 ∧ t.pins.inIsr = s.pins.inIsr ∧
    t.pins.irqPend =
      (s.pins.irqPend || (!s.pins.level0 && t.pinFn0) || (!s.pins.level1 && t.pinFn1))

/-- AUTOCLEAR = datasheet is in force: family H only (R252, log 16). -/
abbrev DatasheetClears (c : Cfg) : Prop := c.family = .h ∧ c.autoClear = .datasheet

/-- The hardware flags that a write of mode `m` leaves under AUTOCLEAR = datasheet (R252): leaving Transmit clears
PacketSent, leaving Receive clears Timeout, and PayloadReady where the FIFO is empty. -/
def hwAfterMode (s : State) (m : Mode) : EventBits :=
  let left (x : Mode) : Bool := decide (s.mode? = some x ∧ m ≠ x)
  { pr := s.chip.hw.pr && !(left .receive && s.chip.fifo.isEmpty)
    ps := s.chip.hw.ps && !left .transmit
    tmo := s.chip.hw.tmo && !left .receive }

/-- Run on from the outcome of a step. -/
def thenRun (o : Out State) (k : State → Out State) : Out State :=
  match o with
  | .next s => k s
  | .fault r => .fault r
  | .refused r => .refused r

/-- The Host holds the machine alone: nothing is scheduled, it is not held, and it stands at the frames
`pos`. -/
structure HostAlone (s : State) (pos : List Frame) : Prop where
  input : s.env.input = []
  position : s.caller.hostPos = pos
  running : hostMayAct s = true
  initOk : s.caller.initFailed = false

/-- The invariant of the machine: the configuration is well formed; the register file is canonical; the mode is
defined (R25); the recorded pin levels are the pin functions (R38, R255); no service is in progress between
steps (R259); the power is in the family's range (R32); the fault record is in order; only a recorded fault
stops an agent (R10); a closed bracket holds no bytes. -/
structure Inv (s : State) : Prop where
  cfgWf : s.cfg.wf = true
  regsWf : Memory.wf s.chip.regs = true
  modeDefined : s.mode?.isSome = true
  level0 : s.pins.level0 = s.pinFn0
  level1 : s.pins.level1 = s.pinFn1
  notInIsr : s.pins.inIsr = false
  powerLow : s.cfg.pMin ≤ s.chip.outputPower
  powerHigh : s.chip.outputPower ≤ s.cfg.pMax
  faultsOrdered : s.caller.faults.Pairwise fun f g => f.key < g.key
  stoppedFaulted : s.caller.hostStopped = true ∨ s.caller.isrStopped = true → s.caller.faults ≠ []
  slots : s.port.got.length = s.port.sent.length
  closed : s.port.busSelected = false → s.port.sent = []

/-- Family S loses no edge: while a pin is high its request is still pending, unless the Isr has stopped
(R177, R316). -/
def EdgePending (s : State) : Prop :=
  s.cfg.family = .s → s.pins.level0 = true ∨ s.pins.level1 = true →
    s.pins.irqPend = true ∨ s.caller.isrStopped = true

/-- A safe run takes no fault. -/
def SafeState (s : State) : Prop := s.caller.faults = []

/-! ## Runs and the fairness premises (R272) -/

/-- An infinite run. -/
def IsRun (r : Nat → State) : Prop := ∀ n, step (r n) = .next (r (n + 1))

/-- IRQ_ROUTED: whenever IRQSVC is enabled, it is eventually taken: some later step, or a gap inside it, enters the
service. -/
def IrqRouted (r : Nat → State) : Prop :=
  ∀ n, irqEnabled (r n) = true → ∃ m, n ≤ m ∧ (r m).seen.services < (r (m + 1)).seen.services

/-- HW_TRUST_TX: if the mode is Transmit and stays so, EV_PS eventually occurs. One that has occurred since the mode was
entered counts, since its flag, 1 in Transmit from then on under family H, lets no second one follow (R251, R252). -/
def HwTrustTx (r : Nat → State) : Prop :=
  ∀ n, (∀ m, n ≤ m → (r m).mode? = some .transmit) → ∃ m, n ≤ m ∧ (r m).seen.packetSent = true

/-- HW_TIMEOUT_FIRES: under family H, if `Armed()` holds and stays so, EV_TO eventually occurs. One that has occurred
since `Armed()` began to hold counts (R253, R252). -/
def HwTimeoutFires (r : Nat → State) : Prop :=
  ∀ n, (∀ m, n ≤ m → (r m).armed = true) → ∃ m, n ≤ m ∧ (r m).seen.timedOut = true

/-- HW_REARM_CLEAN, of the state at the first step of TXPL or STARTRX: the hardware flags family H's next wait
needs are clear. -/
def HwRearmClean (s : State) : Prop :=
  s.cfg.family = .h →
    match s.caller.hostPos with
    | ⟨.txpl _ _, 0, _⟩ :: _ => s.chip.hw.ps = false
    | ⟨.startrx _, 0, _⟩ :: _ => s.chip.hw.pr = false ∧ s.chip.hw.tmo = false
    | _ => True

end Sys2Proof.Machine
end

