-- ==== Sys2Proof/Certificates/Slice0/Obligations.lean ====
section
/-! DEFINITION. The statements for the provers. Each docstring names the rule or section of spec/ it
formalises. -/

open Sys2Proof Sys2Proof.Machine

/-! ## Encoding -/

/-- R90 to R93, R100, R101: decoding an encoded well-formed instruction gives it back, under every
configuration. -/
def Obligations.DecodeOfEncodeIsTheInstruction : Prop :=
  ∀ (c : Cfg) (i : Instr), i.wf c = true → decode c (encode c i).1 (encode c i).2 = .ok i

/-- R90 to R93, R100 to R102: bytes that decode are the encoding of what they decode to, which is well formed:
no two instructions share bytes on one interface and no bit is dropped. -/
def Obligations.EncodeOfDecodeIsTheBytes : Prop :=
  ∀ (c : Cfg) (port : Port) (bytes : List Byte) (i : Instr),
    decode c port bytes = .ok i → i.wf c = true ∧ encode c i = (port, bytes)

/-- Words of 95_test_vectors.md (V10, V11, V1, V2, V33, V45, V47, V6), written out from R91 to R93. -/
def Obligations.WrittenOutWordsDecode : Prop :=
  decode cfgH0 .command [0x10#8, 0x03#8] = .ok .setmodeTransmit ∧
  decode cfgH0 .command [0x25#8, 0x01#8] = .ok .clrfPs ∧
  decode cfgH0 .command [0x31#8, 0x00#8] = .ok .forceto ∧
  decode cfgH0 .bus [0x01#8, 0x00#8] = .ok (.rdregOpmode 0x00#8) ∧
  decode cfgH0 .bus [0xAA#8, 0xFF#8] = .ok (.wrregRxto1 0xFF#8) ∧
  decode cfgH0 .bus [0xB3#8, 0x12#8] = .ok (.wrreg 0x33#7 0x12#8) ∧
  decode cfgH0 .bus [0x80#8, 0x03#8, 0x11#8, 0xAA#8, 0xBB#8] = .ok (.fifowr [0x03#8, 0x11#8, 0xAA#8, 0xBB#8]) ∧
  decode cfgH0 .bus [0x00#8, 0x00#8] = .ok (.fiford [0x00#8])

/-- R104, R102, R107: a command word outside the map of R100 is refused (the list is R100's, XFER's words apart), and so
is a frame handed over whole of one byte, or of more than two bytes away from REG_FIFO. That a frame of no bytes is
refused as well is the model's choice (log 37). -/
def Obligations.ReservedEncodingsAreRefused : Prop :=
  ∀ (s : State) (ag : Agent) (gaps : List (List EnvStep)) (rest : List Input), mayAct ag s = true →
    (ag = .host → s.caller.hostPos = []) →
    (∀ o p : Byte, s.env.input = .op ag .command [o, p] gaps :: rest → o ≠ 0x03#8 →
      (o ++ p : BitVec 16) ∉
        [0x0100#16, 0x0200#16, 0x0400#16, 0x0500#16, 0x1000#16, 0x1001#16, 0x1002#16, 0x1003#16, 0x1004#16, 0x2000#16,
          0x2100#16, 0x2200#16, 0x2300#16, 0x2400#16, 0x2401#16, 0x2402#16, 0x2500#16, 0x2501#16, 0x2502#16, 0x2600#16,
          0x2601#16, 0x2602#16, 0x2700#16, 0x2701#16, 0x2702#16, 0x3000#16, 0x3001#16, 0x3100#16, 0x3200#16] →
      step s = .refused .reservedCommand) ∧
    (∀ bytes : List Byte, s.env.input = .op ag .bus bytes gaps :: rest →
      (bytes = [] → step s = .refused .badShape) ∧
      (∀ b : Byte, bytes = [b] → step s = .refused .badShape) ∧
      (∀ (ab d d' : Byte) (ds : List Byte), bytes = ab :: d :: d' :: ds → addrOf ab ≠ s.cfg.regFifo →
        step s = .refused .badShape))

/-! ## The step -/

/-- R9, R90: when the next entry of the schedule hands over bytes that decode to an instruction, and its agent
may act, the step is `exec` of that instruction, with the entry consumed and the issuer and the pre-emptions
in hand. -/
def Obligations.StepRunsTheDecodedInstruction : Prop :=
  ∀ (s : State) (ag : Agent) (port : Port) (bytes : List Byte) (gaps : List (List EnvStep)) (rest : List Input)
    (i : Instr),
    s.env.input = .op ag port bytes gaps :: rest → mayAct ag s = true →
    (ag = .host → s.caller.hostPos = []) → decode s.cfg port bytes = .ok i →
    step s = exec i { s with env := { s.env with input := rest, agent := ag, gaps := gaps } }

/-- The step of `withFetchWord` runs exactly the instruction of the word, issued by the first agent that may
issue it; the schedule behind it is as before (the model's own interface, log 13). -/
def Obligations.FetchWordRunsItsInstruction : Prop :=
  ∀ (s : State) (nbits w : Nat) (i : Instr),
    decode s.cfg (tableBytes nbits w).1 (tableBytes nbits w).2 = .ok i →
    step (s.withFetchWord nbits w) = exec i (handOver i.issuer [] (readyFor i.issuer s))

/-- R23, R211: a Host turn executes the statement on top of `hostPos`, with the pre-emptions of that turn in
hand. -/
def Obligations.HostTurnExecutesTheNextStatement : Prop :=
  ∀ (s : State) (f : Frame) (fs : List Frame) (gaps : List (List EnvStep)) (rest : List Input),
    s.env.input = .host gaps :: rest → hostMayAct s = true → s.caller.hostPos = f :: fs →
    step s = stmt f { s with env := { s.env with input := rest, agent := .host, gaps := gaps } }

/-! ## Register port -/

/-- R120: SEL opens a bracket, and is refused while one is open. -/
def Obligations.SelOpensABracket : Prop :=
  ∀ s : State, HostOrIsrMay s →
    (s.port.busSelected = false →
      exec .sel s =
        .next { s with port := { s.port with busSelected := true, owner := s.env.agent, sent := [], got := [] } }) ∧
    (s.port.busSelected = true → exec .sel s = .refused .transactionOpen)

/-- R122: XFER sends its byte into the next slot and returns the byte shifted back; in the data slot of a
register read that is the register's value (to an agent that may read it, log 31), in a data slot of the Host's FIFO
read the next oldest byte. Outside a bracket it is refused. -/
def Obligations.XferExchangesOneByte : Prop :=
  ∀ (s : State) (b : Byte), HostOrIsrMay s →
    (s.port.busSelected = false → exec (.xfer b) s = .refused .noTransaction) ∧
    (s.port.busSelected = true → s.port.owner = s.env.agent →
      ∃ r : Byte,
        exec (.xfer b) s =
          .next
            ((({ s with port := { s.port with sent := s.port.sent ++ [b], got := s.port.got ++ [r] } } : State).drew
              1).answer (.byte r)) ∧
        (∀ ab : Byte, s.port.sent = [ab] → writeBit ab = false → s.port.settlePending = false →
          MayRead s (addrOf ab) → addrOf ab ≠ s.cfg.regFifo → r = readValue (addrOf ab) s) ∧
        (∀ (ab : Byte) (data : List Byte) (x : Byte), s.port.sent = ab :: data → writeBit ab = false →
          s.port.settlePending = false → HostMay s → addrOf ab = s.cfg.regFifo → s.cfg.present = true →
          s.chip.fifo[data.length]? = some x → r = x))

/-- R121, R107, R310, R123 to R126: DESEL closes the bracket and its transaction takes effect as a whole: the register
read, the register write, the FIFO read and the FIFO write; it faults in the settle window; a bracket of one byte, or
of more than two away from REG_FIFO, is refused, and so is DESEL outside a bracket. That an empty bracket has no
effect, that a write, or a read of a register kept for the Host, is refused to the Isr, and the order of these checks
are the model's choice (log 11, log 31, log 29). -/
def Obligations.DeselClosesTheBracket : Prop :=
  ∀ s : State, HostOrIsrMay s →
    (s.port.busSelected = false → exec .desel s = .refused .noTransaction) ∧
    (s.port.busSelected = true → s.port.owner = s.env.agent →
      (s.port.sent = [] → exec .desel s = .next (closeBus s)) ∧
      (∀ ab : Byte, s.port.sent = [ab] → exec .desel s = .refused .badShape) ∧
      (∀ (ab d d' : Byte) (ds : List Byte), s.port.sent = ab :: d :: d' :: ds → addrOf ab ≠ s.cfg.regFifo →
        exec .desel s = .refused .badShape) ∧
      (∀ (ab d : Byte) (ds : List Byte), s.port.sent = ab :: d :: ds → addrOf ab = s.cfg.regFifo ∨ ds = [] →
        (s.env.agent = .isr → writeBit ab = true ∨ s.cfg.hostOnly (addrOf ab) = true →
          exec .desel s = .refused .wrongAgent) ∧
        (HostMay s ∨ (writeBit ab = false ∧ MayRead s (addrOf ab)) → s.port.settlePending = true →
          exec .desel s = .next (closeBus (raise s.env.agent (.unsettledAccess (addrOf ab)) s)))) ∧
      (∀ ab d : Byte, s.port.sent = [ab, d] → addrOf ab ≠ s.cfg.regFifo → s.port.settlePending = false →
        (writeBit ab = false → MayRead s (addrOf ab) →
          exec .desel s = .next (closeBus ((readEffect (addrOf ab) s).sentFrame [ab, d] (s.port.got.drop 1)))) ∧
        (writeBit ab = true → HostMay s →
          exec .desel s =
            match writeEffect (addrOf ab) d s with
            | .ok s1 => .next (closeBus (s1.sentFrame [ab, d] []))
            | .error r => .refused r)) ∧
      (∀ (ab d : Byte) (ds : List Byte), s.port.sent = ab :: d :: ds → addrOf ab = s.cfg.regFifo → HostMay s →
        s.port.settlePending = false →
        (writeBit ab = false →
          exec .desel s =
            .next (closeBus ((fifoPop (ds.length + 1) s).sentFrame (ab :: d :: ds) (s.port.got.drop 1)))) ∧
        (writeBit ab = true → ds.length + 1 ≤ s.cfg.maxPayload + 2 →
          exec .desel s =
            .next
              (closeBus
                (({ s with chip := { s.chip with fifo := s.chip.fifo ++ d :: ds } } : State).sentFrame (ab :: d :: ds)
                  []))) ∧
        (writeBit ab = true → s.cfg.maxPayload + 2 < ds.length + 1 → exec .desel s = .refused .burstTooLong)))

/-- R122 with vector V16: SEL, XFER of the write address byte, XFER of the data byte, DESEL has the effect of the
WRREG frame: the same chip, latch, pins, settle bit, bus record and fault record, or the same refusal. -/
def Obligations.RawWriteBracketEqualsWrreg : Prop :=
  ∀ (s : State) (a : Addr) (d : Byte), HostMay s → PortReady s → a ≠ s.cfg.regFifo →
    let raw :=
      thenRun (exec .sel s) fun s1 =>
        thenRun (exec (.xfer (addrByte true a)) s1) fun s2 =>
          thenRun (exec (.xfer d) s2) fun s3 => exec .desel s3
    (∀ t, exec (.wrreg a d) s = .next t →
      ∃ u, raw = .next u ∧ u.chip = t.chip ∧ u.latch = t.latch ∧ u.pins = t.pins ∧ u.cfg = t.cfg ∧
        u.port.settlePending = t.port.settlePending ∧ u.port.busSelected = false ∧ u.env.bus = t.env.bus ∧
        u.caller.faults = t.caller.faults) ∧
    (∀ r, exec (.wrreg a d) s = .refused r → raw = .refused r)

/-- R127: DELAY ends the settle window and does nothing else. -/
def Obligations.DelayEndsTheSettleWindow : Prop :=
  ∀ s : State, HostMay s → exec .delay s = .next { s with port := { s.port with settlePending := false } }

/-- R300: what PWRON leaves. The drawn registers are free values, so nothing is said of them but the range of the
power; the latch, `fault` and `hostPos` are not touched. -/
def Obligations.PwronSetsTheResetState : Prop :=
  ∀ s : State, s.cfg.wf = true → Memory.wf s.chip.regs = true → HostMay s →
    ∃ t : State, exec .pwron s = .next t ∧ t.mode? = some s.cfg.resetMode ∧
      t.chip.hw = ⟨false, false, false⟩ ∧ t.chip.fifo = [] ∧
      s.cfg.pMin ≤ t.chip.outputPower ∧ t.chip.outputPower ≤ s.cfg.pMax ∧
      t.pins = ⟨false, false, false, false⟩ ∧ t.port.settlePending = true ∧ t.port.busSelected = false ∧
      t.cfg = s.cfg ∧ t.latch = s.latch ∧ t.caller = s.caller ∧ t.env.bus = s.env.bus

/-- R68, R69, R123, R24, R29, R30: a read of a register that is neither a status register nor REG_FIFO returns what R68
says (any byte where the chip is absent, R148) and changes nothing but the result, the bus record and the draw counter.
For the Host, and for the Isr at the registers no rule keeps for the Host (the model's choice, log 31); at the others
the Isr is refused. -/
def Obligations.RegisterReadsReturnAndKeep : Prop :=
  ∀ (s : State) (i : Instr) (a : Addr) (d : Byte), s.cfg.wf = true → readOf i = some (a, d) → PortReady s →
    a ≠ s.cfg.regFifo → a ≠ s.cfg.regIrq1 → a ≠ s.cfg.regIrq2 →
    (MayRead s a →
      ∃ v : Byte,
        exec i s = .next (((s.drew 1).sentFrame [addrByte false a, d] [v]).answer (.byte v)) ∧
        (a = s.cfg.regVersion → v = s.cfg.versionValue) ∧
        (s.cfg.present = true →
          (a = s.cfg.regRssi → v = s.chip.rssiRaw) ∧
          (a = s.cfg.regOpmode ∨ a = s.cfg.regPinmapA ∨ a = s.cfg.regPinmapB → v = s.reg a) ∧
          (s.cfg.family = .h → a = s.cfg.regRxto1 ∨ a = s.cfg.regRxto2 → v = s.reg a))) ∧
    (s.env.agent = .isr →
      a = s.cfg.regOpmode ∨ a = s.cfg.regPinmapA ∨ a = s.cfg.regPinmapB ∨
        (s.cfg.family = .h ∧ (a = s.cfg.regRxto1 ∨ a = s.cfg.regRxto2)) →
      exec i s = .refused .wrongAgent)

/-- R26, R66, R67, R256: a status read of a present chip returns the event flags and CRC-valid of its register in their
places; under family H it changes nothing else, under family S it clears exactly the flags it returned and recomputes
the pins once. That the Isr may issue it as a frame of its own is the model's choice (log 31). -/
def Obligations.StatusReadsReturnTheFlags : Prop :=
  ∀ (s : State) (i : Instr) (k : StatusReg) (d : Byte), s.cfg.wf = true → readOf i = some (s.cfg.regIrq k, d) →
    HostOrIsrMay s → PortReady s →
    ∃ (v : Byte) (t : State),
      exec i s = .next (t.answer (.byte v)) ∧
      (s.cfg.present = true →
        (∀ e, (s.cfg.loc e).reg = k → bitOf v (s.cfg.loc e).bit = s.chip.hw.get e) ∧
        (s.cfg.locCrc.reg = k → bitOf v s.cfg.locCrc.bit = s.chip.crcOk)) ∧
      (s.cfg.family = .h → t = (s.drew 1).sentFrame [addrByte false (s.cfg.regIrq k), d] [v]) ∧
      (s.cfg.family = .s →
        (∀ e, t.chip.hw.get e = (s.chip.hw.get e && decide ((s.cfg.loc e).reg ≠ k))) ∧
        t.chip = { s.chip with hw := t.chip.hw } ∧ t.cfg = s.cfg ∧ t.latch = s.latch ∧ t.port = s.port ∧
        t.caller = s.caller ∧ PinsUpdated s t ∧
        t.env = ((s.drew 1).sentFrame [addrByte false (s.cfg.regIrq k), d] [v]).env)

/-- R124, R105, R79, R256, R252: a raw write of REG_OPMODE with a legal pattern is admitted and stores the byte;
`Mode()` changes at once, leaving Sleep sets `settlePending`, the pins are recomputed; nothing else changes but, with
AUTOCLEAR = datasheet, the hardware flags R252 lists (log 16), which raise no request where the recorded levels are
current. A reserved pattern is refused. -/
def Obligations.ModeRegisterWrites : Prop :=
  ∀ (s : State) (i : Instr) (d : Byte), s.cfg.wf = true → Memory.wf s.chip.regs = true →
    writeOf i = some (s.cfg.regOpmode, d) → HostMay s → PortReady s →
    (∀ m, s.cfg.modeOf d = some m →
      ∃ t : State, exec i s = .next t ∧ t.reg s.cfg.regOpmode = d ∧ t.mode? = some m ∧
        (∀ a, a ≠ s.cfg.regOpmode → t.reg a = s.reg a) ∧
        t.port = { s.port with settlePending := decide (s.mode? = some .sleep ∧ m ≠ .sleep) } ∧
        t.chip = { s.chip with regs := t.chip.regs, hw := t.chip.hw } ∧
        (s.cfg.autoClear = .draw ∨ s.cfg.family = .s → t.chip.hw = s.chip.hw ∧ PinsUpdated s t) ∧
        (DatasheetClears s.cfg → t.chip.hw = hwAfterMode s m) ∧
        (PinsCurrent s → t.pins.irqPend = s.pins.irqPend) ∧ (s.pins.irqPend = true → t.pins.irqPend = true) ∧
        t.pins.level0 = t.pinFn0 ∧ t.pins.level1 = t.pinFn1 ∧ t.pins.inIsr = s.pins.inIsr ∧
        t.cfg = s.cfg ∧ t.latch = s.latch ∧ t.caller = s.caller ∧
        t.env = (s.sentFrame [addrByte true s.cfg.regOpmode, d] []).env) ∧
    (s.cfg.modeOf d = none → exec i s = .refused .reservedModePattern)

/-- R124, R79 (b), (c), R69: a write of a pin-map register stores the byte and recomputes the pins; under family H
a write of a duration register stores the byte; a write of a register the block does not decode changes nothing
but the bus record. -/
def Obligations.PlainRegisterWrites : Prop :=
  ∀ (s : State) (i : Instr) (a : Addr) (d : Byte), s.cfg.wf = true → writeOf i = some (a, d) → HostMay s →
    PortReady s →
    (a = s.cfg.regPinmapA ∨ a = s.cfg.regPinmapB →
      exec i s = .next ((s.setReg a d).updatePins.sentFrame [addrByte true a, d] [])) ∧
    (s.cfg.family = .h → a = s.cfg.regRxto1 ∨ a = s.cfg.regRxto2 →
      exec i s = .next ((s.setReg a d).sentFrame [addrByte true a, d] [])) ∧
    (a ≠ s.cfg.regPinmapA → a ≠ s.cfg.regPinmapB → a ≠ s.cfg.regRxto1 → a ≠ s.cfg.regRxto2 →
      a ∉ s.cfg.decoded → exec i s = .next (s.sentFrame [addrByte true a, d] []))

/-- R106: the refused writes, and the duration registers' writes refused under family S. -/
def Obligations.RefusedRegisterWrites : Prop :=
  ∀ (s : State) (i : Instr) (a : Addr) (d : Byte), s.cfg.wf = true → writeOf i = some (a, d) → HostMay s →
    PortReady s →
    (a ∈ [s.cfg.regIrq1, s.cfg.regIrq2, s.cfg.regVersion, s.cfg.regPower, s.cfg.regRssi] →
      exec i s = .refused .refusedWrite) ∧
    (a = s.cfg.regRxto1 ∨ a = s.cfg.regRxto2 →
      (s.cfg.family = .h → exec i s = .next ((s.setReg a d).sentFrame [addrByte true a, d] [])) ∧
      (s.cfg.family = .s → a ∉ s.cfg.decoded → a ≠ s.cfg.regPinmapA → a ≠ s.cfg.regPinmapB →
        exec i s = .refused .familyMismatch))

/-- R125: FIFOWR pushes its bytes in order, faults in the settle window, and is refused over `MAX_PAYLOAD` + 2 bytes;
that the settle fault comes before that refusal is the model's choice (log 29). A write row whose register is REG_FIFO
under the configuration, which is no well-formed instruction, is FIFOWR of its one byte (R101; the model's choice,
log 15). -/
def Obligations.FifowrPushesItsBytes : Prop :=
  ∀ (s : State) (bytes : List Byte), HostMay s → s.port.busSelected = false →
    (s.port.settlePending = true →
      exec (.fifowr bytes) s = .next (raise .host (.unsettledAccess s.cfg.regFifo) s)) ∧
    (s.port.settlePending = false → bytes.length ≤ s.cfg.maxPayload + 2 →
      exec (.fifowr bytes) s =
        .next
          (({ s with chip := { s.chip with fifo := s.chip.fifo ++ bytes } } : State).sentFrame
            (addrByte true s.cfg.regFifo :: bytes) [])) ∧
    (s.port.settlePending = false → s.cfg.maxPayload + 2 < bytes.length →
      exec (.fifowr bytes) s = .refused .burstTooLong) ∧
    (∀ (i : Instr) (d : Byte), writeOf i = some (s.cfg.regFifo, d) → exec i s = exec (.fifowr [d]) s)

/-- R126, R62, R252: FIFORD n returns n bytes, the oldest first, any value past the end, and removes them; with the
default AUTOCLEAR nothing else of the chip changes, with AUTOCLEAR = datasheet one that empties the FIFO clears
`hwF[PR]` and recomputes the pins (log 16). A read row whose register is REG_FIFO under the configuration, which is no
well-formed instruction, is FIFORD 1 (R101; the model's choice, log 15). -/
def Obligations.FifordPopsTheOldest : Prop :=
  ∀ (s : State) (fill : List Byte), HostMay s → PortReady s →
    (∀ (i : Instr) (d : Byte), readOf i = some (s.cfg.regFifo, d) → exec i s = exec (.fiford [d]) s) ∧
    ∃ (bs : List Byte) (t : State), exec (.fiford fill) s = .next t ∧
      t.caller = { s.caller with result := .bytes bs } ∧ bs.length = fill.length ∧
      (∀ (n : Nat) (b : Byte), s.cfg.present = true → n < fill.length → s.chip.fifo[n]? = some b → bs[n]? = some b) ∧
      t.chip.fifo = s.chip.fifo.drop fill.length ∧
      t.chip = { s.chip with fifo := t.chip.fifo, hw := t.chip.hw } ∧
      (DatasheetClears s.cfg → s.chip.fifo ≠ [] → t.chip.fifo = [] →
        t.chip.hw = { s.chip.hw with pr := false } ∧ PinsUpdated s t) ∧
      (¬ DatasheetClears s.cfg ∨ s.chip.fifo = [] ∨ t.chip.fifo ≠ [] → t.chip.hw = s.chip.hw ∧ t.pins = s.pins) ∧
      t.cfg = s.cfg ∧ t.latch = s.latch ∧ t.port = s.port ∧
      t.env = ((s.drew fill.length).sentFrame (addrByte false s.cfg.regFifo :: fill) bs).env

/-- R126: FIFORD n followed by FIFORD m returns the same bytes as FIFORD n+m and leaves the same chip and pins,
where the FIFO holds that many. -/
def Obligations.FifordSplits : Prop :=
  ∀ (s : State) (x y : List Byte), HostMay s → PortReady s → x.length + y.length ≤ s.chip.fifo.length → y ≠ [] →
    ∃ (bx by' : List Byte) (t u v : State),
      exec (.fiford x) s = .next t ∧ exec (.fiford y) t = .next u ∧ exec (.fiford (x ++ y)) s = .next v ∧
      t.caller.result = .bytes bx ∧ u.caller.result = .bytes by' ∧ v.caller.result = .bytes (bx ++ by') ∧
      u.chip = v.chip ∧ u.pins = v.pins ∧ u.latch = v.latch ∧ u.port = v.port

/-- R310, R268: while `settlePending` = 1 every Host instruction built on a transaction records UnsettledAccess of
its register, changes nothing of the block and stops the Host. That the Host's expansion is over is R211 with the
model's reading in log 6. -/
def Obligations.UnsettledAccessFaults : Prop :=
  ∀ (s : State) (i : Instr) (a : Addr), transactionAddr s.cfg i = some a → HostMay s → s.port.busSelected = false →
    s.port.settlePending = true →
    ∃ t : State, exec i s = .next t ∧ t.caller.faults = insertFault (.unsettledAccess a) s.caller.faults ∧
      Fault.unsettledAccess a ∈ t.caller.faults ∧
      t.caller.hostStopped = true ∧ t.caller.hostPos = [] ∧ t.cfg = s.cfg ∧ t.chip = s.chip ∧ t.latch = s.latch ∧
      t.pins = s.pins ∧ t.port = s.port ∧ t.env.bus = s.env.bus

/-- R107, R120: while a bracket is open every Host instruction built on a transaction is refused, since it begins
with SEL. That the refusal comes before the fault of R310 where the chip also settles is the model's choice (log 29). -/
def Obligations.OpenBracketRefusesTransactions : Prop :=
  ∀ (s : State) (i : Instr) (a : Addr), transactionAddr s.cfg i = some a → HostMay s → s.port.busSelected = true →
    exec i s = .refused .transactionOpen

/-! ## Mode controller -/

/-- R140 to R146: SETMODE m reads the mode register, replaces the MODE field and writes it back, whatever the other
agents do between the two transactions (R72); the OTHER bits of a present chip are kept. Everything else is as the gap
left it, the settle bit, the pins and, with AUTOCLEAR = datasheet, the hardware flags R252 lists (log 16) apart. -/
def Obligations.SetmodeReplacesTheModeField : Prop :=
  ∀ (s : State) (m : Mode), s.cfg.wf = true → Memory.wf s.chip.regs = true → HostMay s → PortReady s →
    let r := readValue s.cfg.regOpmode s
    let g := atGap s.cfg.regOpmode s
    let v := putField r s.cfg.modeMask (s.cfg.modeBits m)
    (s.cfg.present = true → r = s.reg s.cfg.regOpmode) ∧
    ∃ t : State, exec (setmodeInstr m) s = .next t ∧ t.reg s.cfg.regOpmode = v ∧ t.mode? = some m ∧
      t.reg s.cfg.regOpmode &&& ~~~ s.cfg.modeMask = r &&& ~~~ s.cfg.modeMask ∧
      (∀ a, a ≠ s.cfg.regOpmode → t.reg a = s.reg a) ∧
      t.port = { s.port with settlePending := decide (s.mode? = some .sleep ∧ m ≠ .sleep) } ∧
      t.chip = { g.chip with regs := t.chip.regs, hw := t.chip.hw } ∧
      (s.cfg.autoClear = .draw ∨ s.cfg.family = .s → t.chip.hw = g.chip.hw ∧ PinsUpdated g t) ∧
      (DatasheetClears s.cfg → t.chip.hw = hwAfterMode g m) ∧
      (PinsCurrent g → t.pins.irqPend = g.pins.irqPend) ∧ (g.pins.irqPend = true → t.pins.irqPend = true) ∧
      t.pins.level0 = t.pinFn0 ∧ t.pins.level1 = t.pinFn1 ∧ t.pins.inIsr = g.pins.inIsr ∧
      t.cfg = s.cfg ∧ t.latch = g.latch ∧ t.caller = g.caller ∧
      t.env = (g.sentFrame [addrByte true s.cfg.regOpmode, v] []).env

/-- R147: every one of the 25 ordered pairs of modes is a legal SETMODE; the pairs that leave Sleep set
`settlePending`. -/
def Obligations.EveryModePairIsLegal : Prop :=
  ∀ (s : State) (source target : Mode), s.cfg.wf = true → Memory.wf s.chip.regs = true → HostMay s →
    PortReady s → s.mode? = some source →
    ∃ t : State, exec (setmodeInstr target) s = .next t ∧ t.mode? = some target ∧
      t.port.settlePending = (source == .sleep && target != .sleep)

/-! ## Latch -/

/-- R160, R161, R258, R259 (family H): an enabled IRQSVC makes every flag view the current hardware flag, takes the
pending request, is out of service when it returns, and changes nothing else but the shadows, the bus record and
the draw counter. -/
def Obligations.IrqsvcSamplesUnderFamilyH : Prop :=
  ∀ s : State, s.cfg.wf = true → s.cfg.present = true → s.cfg.family = .h → s.env.agent = .isr →
    irqEnabled s = true → s.port.settlePending = false →
    ∃ t : State, exec .irqsvc s = .next t ∧ (∀ e, flagView t e = s.chip.hw.get e) ∧
      t.pins = { s.pins with irqPend := false, inIsr := false } ∧ t.latch.bits = s.latch.bits ∧
      t.cfg = s.cfg ∧ t.chip = s.chip ∧ t.port = s.port ∧ t.caller = s.caller ∧
      t.env.bus =
        s.env.bus ++
          [⟨[addrByte false s.cfg.regIrq1, 0#8], [t.latch.shadow1]⟩, ⟨[addrByte false s.cfg.regIrq2, 0#8], [t.latch.shadow2]⟩]

/-- R160, R163, R258, R259 (family S): an enabled IRQSVC or-s every hardware flag into its boolean, clears the
hardware flags, and leaves both pins low and no request pending. -/
def Obligations.IrqsvcLatchesUnderFamilyS : Prop :=
  ∀ s : State, s.cfg.wf = true → s.cfg.present = true → s.cfg.family = .s → s.env.agent = .isr →
    irqEnabled s = true → s.port.settlePending = false → s.pins.level0 = s.pinFn0 → s.pins.level1 = s.pinFn1 →
    ∃ t : State, exec .irqsvc s = .next t ∧
      (∀ e, flagView t e = (s.latch.bits.get e || s.chip.hw.get e)) ∧
      t.chip = { s.chip with hw := ⟨false, false, false⟩ } ∧ t.pins = ⟨false, false, false, false⟩ ∧
      t.latch.shadow1 = s.latch.shadow1 ∧ t.latch.shadow2 = s.latch.shadow2 ∧
      t.cfg = s.cfg ∧ t.port = s.port ∧ t.caller = s.caller

/-- R310, R258, R259, with the model's choice of log 8: an IRQSVC in the settle window records UnsettledAccess of the
first status register and stops the Isr; the request is taken, no service is left open, and chip and latch are
unchanged. -/
def Obligations.UnsettledServiceFaultsTheIsr : Prop :=
  ∀ s : State, s.env.agent = .isr → irqEnabled s = true → s.port.settlePending = true →
    ∃ t : State, exec .irqsvc s = .next t ∧
      t.caller =
        { s.caller with
          faults := insertFault (.unsettledAccess s.cfg.regIrq1) s.caller.faults
          isrStopped := true } ∧
      t.pins = { s.pins with irqPend := false, inIsr := false } ∧
      t.cfg = s.cfg ∧ t.chip = s.chip ∧ t.latch = s.latch ∧ t.port = s.port ∧ t.env = s.env

/-- R161, R163: SAMPLE stores both status views under family H; LATCH or-s the events into the booleans under
family S and recomputes the pins; each is refused under the other family. That the Isr may issue them outside a
service (log 32) and that no event then falls between the two reads (log 38) is the model's choice. -/
def Obligations.SampleAndLatchByFamily : Prop :=
  ∀ s : State, s.cfg.wf = true → s.cfg.present = true → s.env.agent = .isr → PortReady s →
    (s.cfg.family = .h → exec .latch s = .refused .familyMismatch ∧
      ∃ t : State, exec .sample s = .next t ∧ (∀ e, flagView t e = s.chip.hw.get e) ∧
        bitOf (t.latch.shadow s.cfg.locCrc.reg) s.cfg.locCrc.bit = s.chip.crcOk ∧
        t.latch.bits = s.latch.bits ∧ t.cfg = s.cfg ∧ t.chip = s.chip ∧ t.pins = s.pins ∧ t.port = s.port ∧
        t.caller = s.caller) ∧
    (s.cfg.family = .s → exec .sample s = .refused .familyMismatch ∧
      ∃ t : State, exec .latch s = .next t ∧
        (∀ e, flagView t e = (s.latch.bits.get e || s.chip.hw.get e)) ∧
        t.chip = { s.chip with hw := ⟨false, false, false⟩ } ∧ t.pins.level0 = false ∧ t.pins.level1 = false ∧
        (PinsCurrent s → t.pins.irqPend = s.pins.irqPend) ∧ (s.pins.irqPend = true → t.pins.irqPend = true) ∧
        t.pins.inIsr = s.pins.inIsr ∧ t.latch.shadow1 = s.latch.shadow1 ∧ t.latch.shadow2 = s.latch.shadow2 ∧
        t.cfg = s.cfg ∧ t.port = s.port ∧ t.caller = s.caller)

/-- R162, R164, R165, R166: CLEAR zeroes the shadow pair under family H, touches nothing else, and is refused under
family S; CLRPR, CLRPS and CLRTO make one boolean false under family S and touch nothing else, and are refused under
family H. -/
def Obligations.LatchClearsByFamily : Prop :=
  ∀ s : State, HostMay s →
    (s.cfg.family = .h →
      exec .clear s = .next { s with latch := { s.latch with shadow1 := 0x00#8, shadow2 := 0x00#8 } } ∧
      (∀ t, exec .clear s = .next t → ∀ e, flagView t e = false) ∧
      ∀ e, exec (clrInstr e) s = .refused .familyMismatch) ∧
    (s.cfg.family = .s →
      exec .clear s = .refused .familyMismatch ∧
      ∀ e, ∃ t : State, exec (clrInstr e) s = .next t ∧ (∀ e', flagView t e' = (flagView s e' && e' != e)) ∧
        t = { s with latch := { s.latch with bits := t.latch.bits } })

/-- R167, R178: CLRF e makes `F[e]` false; under family S the other flags keep their values, under family H all three
become false; nothing but the latch changes, in particular no hardware flag. -/
def Obligations.ClrfClearsByFamily : Prop :=
  ∀ (s : State) (e : Event), HostMay s →
    ∃ t : State, exec (clrfInstr e) s = .next t ∧ t = { s with latch := t.latch } ∧ flagView t e = false ∧
      (s.cfg.family = .s → ∀ e', e' ≠ e → flagView t e' = flagView s e') ∧
      (s.cfg.family = .h → t.latch.shadow1 = 0x00#8 ∧ t.latch.shadow2 = 0x00#8 ∧ ∀ e', flagView t e' = false)

/-- R168, R35: RDF e answers the flag view and writes nothing else; it is legal in the settle window. That it also runs
inside an open bracket is the model's choice (log 36). -/
def Obligations.RdfAnswersTheFlagView : Prop :=
  ∀ (s : State) (e : Event), HostMay s →
    exec (rdfInstr e) s =
      .next
        { s with
          caller :=
            { s.caller with
              result :=
                .flag
                  (match s.cfg.family with
                   | .h =>
                     ((match (s.cfg.loc e).reg with
                       | .one => s.latch.shadow1
                       | .two => s.latch.shadow2) : Byte).getLsbD (s.cfg.loc e).bit.val
                   | .s =>
                     match e with
                     | .pr => s.latch.bits.pr
                     | .ps => s.latch.bits.ps
                     | .tmo => s.latch.bits.tmo) } }

/-- R173 to R176, R315, vector V86: a MAP instruction replaces its field of its pin-map register and, on a present
chip, preserves the other bits, whatever happens between its two transactions; the pins are recomputed and everything
else is as the gap left it. Where no other agent acts in between, mapping a low pin onto a flag that is already 1
sets `irqPend`. -/
def Obligations.MapReplacesThePinField : Prop :=
  ∀ (s : State) (e : Event), s.cfg.wf = true → Memory.wf s.chip.regs = true → HostMay s → PortReady s →
    let a := (mapField s.cfg e).1
    let r := readValue a s
    let v := putField r (mapField s.cfg e).2.1 (mapField s.cfg e).2.2
    let g := atGap a s
    (s.cfg.present = true → r = s.reg a) ∧
    exec (mapInstr e) s = .next ((g.setReg a v).updatePins.sentFrame [addrByte true a, v] []) ∧
      (g.setReg a v).reg a &&& ~~~ (mapField s.cfg e).2.1 = r &&& ~~~ (mapField s.cfg e).2.1 ∧
      (g.setReg a v).reg a &&& (mapField s.cfg e).2.1 = (mapField s.cfg e).2.2 ∧
      (∀ b, b ≠ a → (g.setReg a v).reg b = s.reg b) ∧
      (s.env.gaps = [] → s.chip.hw.get e = true →
        (match e with
         | .pr | .ps => s.pins.level0
         | .tmo => s.pins.level1) = false →
        ∃ t : State, exec (mapInstr e) s = .next t ∧ t.pins.irqPend = true ∧
          (match e with
           | .pr | .ps => t.pins.level0
           | .tmo => t.pins.level1) = true)

/-! ## Timeout arbiter -/

/-- R191 (family H): TOEN maps Timeout onto pin 1 and writes the two duration registers, on or off, in that order,
whatever happens between its transactions; with nothing in between the pins are recomputed once and nothing else
changes. -/
def Obligations.ToenWritesTheDurations : Prop :=
  ∀ (s : State) (on : Bool), s.cfg.wf = true → Memory.wf s.chip.regs = true → s.cfg.family = .h → HostMay s →
    PortReady s →
    let r := readValue s.cfg.regPinmapB s
    let p := putField r s.cfg.pin1Mask s.cfg.pin1SelTo
    let v1 := if on then s.cfg.toOn1 else 0x00#8
    let v2 := if on then s.cfg.toOn2 else 0x00#8
    (s.cfg.present = true → r = s.reg s.cfg.regPinmapB) ∧
    ∃ t : State, exec (toenInstr on) s = .next t ∧
      t.reg s.cfg.regPinmapB = p ∧ t.reg s.cfg.regRxto1 = v1 ∧ t.reg s.cfg.regRxto2 = v2 ∧
      (∀ a, a ≠ s.cfg.regPinmapB → a ≠ s.cfg.regRxto1 → a ≠ s.cfg.regRxto2 → t.reg a = s.reg a) ∧
      t.cfg = s.cfg ∧ t.port = s.port ∧ t.chip.outputPower = s.chip.outputPower ∧
      t.caller.hostPos = s.caller.hostPos ∧ t.caller.result = s.caller.result ∧
      (s.env.gaps = [] →
        t.chip = { s.chip with regs := t.chip.regs } ∧ t.latch = s.latch ∧ t.caller = s.caller ∧ PinsUpdated s t ∧
        t.env.bus =
          s.env.bus ++
            [⟨[addrByte false s.cfg.regPinmapB, 0#8], [r]⟩, ⟨[addrByte true s.cfg.regPinmapB, p], []⟩,
              ⟨[addrByte true s.cfg.regRxto1, v1], []⟩, ⟨[addrByte true s.cfg.regRxto2, v2], []⟩])

/-- R192 (family S): TOEN maps Timeout onto pin 1 and makes `latchTO` false, whatever its operand and whatever happens
between its transactions; with nothing in between the pins are recomputed once and nothing else changes. -/
def Obligations.ToenClearsTheTimeoutBoolean : Prop :=
  ∀ (s : State) (on : Bool), s.cfg.wf = true → Memory.wf s.chip.regs = true → s.cfg.family = .s → HostMay s →
    PortReady s →
    let r := readValue s.cfg.regPinmapB s
    let p := putField r s.cfg.pin1Mask s.cfg.pin1SelTo
    (s.cfg.present = true → r = s.reg s.cfg.regPinmapB) ∧
    exec (toenInstr on) s = exec (toenInstr (!on)) s ∧
    ∃ t : State, exec (toenInstr on) s = .next t ∧ flagView t .tmo = false ∧ t.reg s.cfg.regPinmapB = p ∧
      (∀ a, a ≠ s.cfg.regPinmapB → t.reg a = s.reg a) ∧
      t.cfg = s.cfg ∧ t.port = s.port ∧ t.chip.outputPower = s.chip.outputPower ∧
      (s.env.gaps = [] →
        t.chip = { s.chip with regs := t.chip.regs } ∧ t.caller = s.caller ∧
        t.latch = { s.latch with bits := { s.latch.bits with tmo := false } } ∧ PinsUpdated s t ∧
        t.env.bus =
          s.env.bus ++
            [⟨[addrByte false s.cfg.regPinmapB, 0#8], [r]⟩, ⟨[addrByte true s.cfg.regPinmapB, p], []⟩])

/-- R193, R41, R253: under family H with both duration registers zero the hardware countdown never fires; with one of
them non-zero, in Receive, between transactions, it fires when the Radio takes the step: `hwF[TO]` is 1 and the pins
are recomputed. That a step which is not enabled leaves the state as it is is the model's choice (log 7). -/
def Obligations.CountdownFiresOnlyWhenArmed : Prop :=
  ∀ s : State, s.cfg.family = .h →
    (s.reg s.cfg.regRxto1 = 0x00#8 → s.reg s.cfg.regRxto2 = 0x00#8 → radioStep .timeout s = s) ∧
    (s.mode? ≠ some .receive → radioStep .timeout s = s) ∧
    (s.mode? = some .receive → s.reg s.cfg.regRxto1 ≠ 0x00#8 ∨ s.reg s.cfg.regRxto2 ≠ 0x00#8 →
      s.port.busSelected = false → s.chip.hw.tmo = false →
      let t := radioStep .timeout s
      t.chip = { s.chip with hw := { s.chip.hw with tmo := true } } ∧ PinsUpdated s t ∧
        t = { s with chip := t.chip, pins := t.pins, seen := t.seen })

/-- R194, R195, R276: FORCETO sets `F[TO]`, in every mode, with one store to the latch: the boolean under family S, the
Timeout bit of the shadow under family H; the other flags and everything else are unchanged. -/
def Obligations.ForcetoSetsTheTimeoutFlag : Prop :=
  ∀ s : State, s.cfg.wf = true → s.env.agent = .timer → s.pins.inIsr = false → s.port.busSelected = false →
    ∃ t : State, exec .forceto s = .next t ∧ flagView t .tmo = true ∧ t = { s with latch := t.latch } ∧
      flagView t .pr = flagView s .pr ∧ flagView t .ps = flagView s .ps ∧
      (s.cfg.family = .s → t.latch = { s.latch with bits := { s.latch.bits with tmo := true } }) ∧
      (s.cfg.family = .h →
        t.latch.bits = s.latch.bits ∧
        (s.cfg.locTo.reg = .one →
          t.latch.shadow1 = s.latch.shadow1 ||| 1#8 <<< s.cfg.locTo.bit.val ∧ t.latch.shadow2 = s.latch.shadow2) ∧
        (s.cfg.locTo.reg = .two →
          t.latch.shadow2 = s.latch.shadow2 ||| 1#8 <<< s.cfg.locTo.bit.val ∧ t.latch.shadow1 = s.latch.shadow1))

/-- R197: PWRFULL sets the output power to `P_FALLBACK` unconditionally, with one write transaction to REG_POWER whose
data byte is free, and faults in the settle window. -/
def Obligations.PwrfullRestoresTheFallback : Prop :=
  ∀ s : State, HostMay s → s.port.busSelected = false →
    (s.port.settlePending = false →
      ∃ x : Byte,
        exec .pwrfull s =
          .next
            ((({ s with chip := { s.chip with outputPower := s.cfg.pFallback } } : State).drew 1).sentFrame
              [addrByte true s.cfg.regPower, x] [])) ∧
    (s.port.settlePending = true → exec .pwrfull s = .next (raise .host (.unsettledAccess s.cfg.regPower) s))

/-! ## Radio steps and pins -/

/-- R250, R251, R253, R254, R258, R276, R71, vector V88: a step that is not enabled changes nothing: a Radio event outside
its mode, with its hardware flag already 1, or in an open bracket (log 10); an IRQSVC with no request pending, in a
service or in an open bracket; a FORCETO in a service or in an open bracket. The rules say when a step is enabled; that
one taken otherwise leaves the state as it is is the model's choice (log 7). -/
def Obligations.StepsNotEnabledChangeNothing : Prop :=
  ∀ (s : State) (first : Byte) (rest : List Byte) (crc : Bool) (rssi : Byte),
    (s.mode? ≠ some .receive →
      radioStep (.payloadReady first rest crc rssi) s = s ∧ radioStep .timeout s = s) ∧
    (s.mode? ≠ some .transmit → radioStep .packetSent s = s) ∧
    (s.chip.hw.pr = true → radioStep (.payloadReady first rest crc rssi) s = s) ∧
    (s.chip.hw.ps = true → radioStep .packetSent s = s) ∧
    (s.chip.hw.tmo = true → radioStep .timeout s = s) ∧
    (s.port.busSelected = true → ∀ ev : RadioEvent, radioStep ev s = s) ∧
    (s.env.agent = .isr → s.pins.irqPend = false ∨ s.pins.inIsr = true ∨ s.port.busSelected = true →
      exec .irqsvc s = .next s) ∧
    (s.env.agent = .timer → s.pins.inIsr = true ∨ s.port.busSelected = true → exec .forceto s = .next s)

/-- R250, R251, R253, R254, R255, R256, vector V84: between transactions, in its mode (Timeout of family H: armed) and
with its flag 0, an event is recorded in its hardware flag and the pins are recomputed; if it is mapped to its pin and
the recorded level is current, `irqPend` is set; the latch, the registers and the Host's side are untouched. -/
def Obligations.MappedEventsRequestService : Prop :=
  ∀ (s : State) (first : Byte) (rest : List Byte) (crc : Bool) (rssi : Byte), s.port.busSelected = false →
    (s.mode? = some .receive → s.chip.hw.pr = false →
      let t := radioStep (.payloadReady first rest crc rssi) s
      t.chip = { s.chip with fifo := first :: rest, crcOk := crc, rssiRaw := rssi, hw := { s.chip.hw with pr := true } } ∧
      t = { s with chip := t.chip, pins := t.pins, seen := t.seen } ∧ PinsUpdated s t ∧
      (s.pins.level0 = s.pinFn0 → s.reg s.cfg.regPinmapA &&& s.cfg.pin0Mask = s.cfg.pin0SelPr →
        t.pins.irqPend = true ∧ t.pins.level0 = true)) ∧
    (s.mode? = some .transmit → s.chip.hw.ps = false →
      let t := radioStep .packetSent s
      t.chip = { s.chip with fifo := [], hw := { s.chip.hw with ps := true } } ∧
      t = { s with chip := t.chip, pins := t.pins, seen := t.seen } ∧ PinsUpdated s t ∧
      (s.pins.level0 = s.pinFn0 → s.cfg.pin0SelPs ≠ s.cfg.pin0SelPr →
        s.reg s.cfg.regPinmapA &&& s.cfg.pin0Mask = s.cfg.pin0SelPs → t.pins.irqPend = true ∧ t.pins.level0 = true)) ∧
    (s.mode? = some .receive → s.chip.hw.tmo = false →
      s.cfg.family = .s ∨ s.reg s.cfg.regRxto1 ≠ 0x00#8 ∨ s.reg s.cfg.regRxto2 ≠ 0x00#8 →
      let t := radioStep .timeout s
      t.chip = { s.chip with hw := { s.chip.hw with tmo := true } } ∧
      t = { s with chip := t.chip, pins := t.pins, seen := t.seen } ∧ PinsUpdated s t ∧
      (s.pins.level1 = s.pinFn1 → s.reg s.cfg.regPinmapB &&& s.cfg.pin1Mask = s.cfg.pin1SelTo →
        t.pins.irqPend = true ∧ t.pins.level1 = true))

/-- R252: with the default AUTOCLEAR, family H's own clear of a hardware flag is enabled exactly when the flag is 1,
no bracket is open (log 10) and the flag is quiet; family S has no such step, nor has AUTOCLEAR = datasheet. That a step
which is not enabled changes nothing is the model's choice (log 7), and so is its being enabled in Sleep (log 33). -/
def Obligations.AutoClearIsQuiet : Prop :=
  ∀ (s : State) (e : Event) (m : Mode), s.mode? = some m →
    (s.cfg.family = .s ∨ s.cfg.autoClear = .datasheet ∨ s.chip.hw.get e = false ∨ s.port.busSelected = true →
      radioStep (.autoClear e) s = s) ∧
    (s.cfg.family = .h → s.cfg.autoClear = .draw → s.chip.hw.get e = true → s.port.busSelected = false →
      ((match e with
        | .ps => m ≠ .transmit
        | .tmo => m ≠ .receive
        | .pr => m ≠ .receive ∨ s.chip.fifo = []) →
        radioStep (.autoClear e) s = (s.setHw e false).updatePins) ∧
      (¬ (match e with
          | .ps => m ≠ .transmit
          | .tmo => m ≠ .receive
          | .pr => m ≠ .receive ∨ s.chip.fifo = []) →
        radioStep (.autoClear e) s = s))

/-! ## The whole machine -/

/-- R44, as far as it gives values: the state after reset (the values it leaves unspecified are log 4's and not
stated). That State holds `cfgH0` is the model's choice (log 1). -/
def Obligations.ResetStateIsAsListed : Prop :=
  State.reset.cfg = cfgH0 ∧ State.reset.mode? = some .standby ∧ State.reset.chip.hw = ⟨false, false, false⟩ ∧
  State.reset.chip.fifo = [] ∧ State.reset.pins = ⟨false, false, false, false⟩ ∧
  State.reset.port.settlePending = true ∧ State.reset.port.busSelected = false ∧
  State.reset.caller.hostPos = [] ∧ State.reset.caller.faults = []

/-- The invariant holds after reset. -/
def Obligations.ResetMeetsTheInvariant : Prop := Inv State.reset ∧ EdgePending State.reset

/-- R25, R38, R255, R259, R32, R60: every step keeps the invariant, from every state that meets it. -/
def Obligations.EveryStepKeepsTheInvariant : Prop :=
  ∀ s t : State, Inv s → step s = .next t → Inv t

/-- R177, R256, R316 (family S): no step leaves a pin high without a pending request, unless the Isr has stopped on a
fault. -/
def Obligations.NoEdgeIsLostUnderFamilyS : Prop :=
  ∀ s t : State, Inv s → EdgePending s → step s = .next t → EdgePending t

/-- R10, R42: a fault is recorded, never forgotten and never final: no step ends the run with a fault; and the
configuration never changes (R5). -/
def Obligations.FaultsAndConfigurationPersist : Prop :=
  ∀ s : State, (∀ f : Fault, step s ≠ .fault f) ∧
    ∀ t : State, step s = .next t → t.cfg = s.cfg ∧ ∀ f ∈ s.caller.faults, f ∈ t.caller.faults

/-- R25, R72, R9: a step of the Isr, the Timer or the Radio writes no stored register, does not change the mode, the
power or the FIFO other than by a Radio event, and moves the Host nowhere; and whatever these agents do in a gap of a
Host primitive, they leave the registers, the mode, the power, the port, the Host's position and its last result as
they were. -/
def Obligations.OnlyTheHostWritesRegisters : Prop :=
  (∀ (s t : State) (rest : List Input), s.cfg.wf = true → step s = .next t →
    (∀ (ag : Agent) (port : Port) (bytes : List Byte) (gaps : List (List EnvStep)), ag ≠ .host →
      s.env.input = .op ag port bytes gaps :: rest →
      t.chip.regs = s.chip.regs ∧ t.mode? = s.mode? ∧ t.chip.outputPower = s.chip.outputPower ∧
        t.chip.fifo = s.chip.fifo ∧ t.caller.hostPos = s.caller.hostPos ∧ t.caller.result = s.caller.result) ∧
    (∀ ev : RadioEvent, s.env.input = .radio ev :: rest →
      t.chip.regs = s.chip.regs ∧ t.mode? = s.mode? ∧ t.chip.outputPower = s.chip.outputPower ∧
        t.latch = s.latch ∧ t.port = s.port ∧ t.caller = s.caller)) ∧
  ∀ s : State,
    (preempt s).cfg = s.cfg ∧ (preempt s).chip.regs = s.chip.regs ∧ (preempt s).mode? = s.mode? ∧
      (preempt s).chip.outputPower = s.chip.outputPower ∧ (preempt s).port = s.port ∧
      (preempt s).caller.hostPos = s.caller.hostPos ∧ (preempt s).caller.hostStopped = s.caller.hostStopped ∧
      (preempt s).caller.result = s.caller.result

/-- R148, U37 of 93_implementation_defined.md, R31: where the chip is absent, what a read of another register than
REG_VERSION or a FIFORD answers does not depend on what the chip holds, and a read of REG_VERSION answers the invalid
value; reads and services complete all the same, so nothing but that read tells. -/
def Obligations.AbsentChipAnswersNothing : Prop :=
  ∀ (s : State) (c : Chip), s.cfg.wf = true → s.cfg.present = false → PortReady s →
    (∀ (i : Instr) (a : Addr) (d : Byte), readOf i = some (a, d) → MayRead s a → a ≠ s.cfg.regFifo →
      ∃ (v : Byte) (t u : State), exec i s = .next (t.answer (.byte v)) ∧
        exec i { s with chip := c } = .next (u.answer (.byte v)) ∧
        (a = s.cfg.regVersion → v = s.cfg.versionInvalid) ∧ t.caller = s.caller ∧ t.latch = s.latch) ∧
    (∀ fill : List Byte, HostMay s →
      ∃ (bs : List Byte) (t u : State), exec (.fiford fill) s = .next (t.answer (.bytes bs)) ∧
        exec (.fiford fill) { s with chip := c } = .next (u.answer (.bytes bs)) ∧ bs.length = fill.length) ∧
    (s.env.agent = .isr →
      (∃ t : State, exec .irqsvc s = .next t ∧ t.caller = s.caller ∧ t.cfg = s.cfg) ∧
      (s.cfg.family = .h → ∃ t : State, exec .sample s = .next t ∧ t.caller = s.caller ∧ t.chip = s.chip) ∧
      (s.cfg.family = .s → ∃ t : State, exec .latch s = .next t ∧ t.caller = s.caller))

/-- R169, R267 (f), R9, R124: an instruction issued by an agent it does not belong to is refused, before any other
reason (the order is the model's choice, log 29). Command words follow R100's column and writes R124; that the FIFO
frames are the Host's (log 11) and a register read is the Host's or the Isr's (log 31) is the model's choice. -/
def Obligations.WrongAgentsAreRefused : Prop :=
  ∀ (s : State) (i : Instr), s.env.agent ∉ i.issuers → exec i s = .refused .wrongAgent

/-- R262, R267 (h): after a failed INIT every Host instruction is refused, and so is every call but INIT. -/
def Obligations.FailedInitRefusesTheHost : Prop :=
  ∀ s : State, s.caller.initFailed = true →
    (∀ i : Instr, s.env.agent = .host → Agent.host ∈ i.issuers → exec i s = .refused .initFailed) ∧
    (∀ p : Pseudo, (∀ f n b, p ≠ .init f n b) → beginCall p s = .refused .initFailed)

/-! ## Pseudo-instructions -/

/-- R210, R223: one Host turn inside WAITF. At an event it reads `F[e]` and adds it to the snapshot; a full snapshot
with a true is returned, and one without starts again, empty. Nothing of the block changes. -/
def Obligations.WaitfReturnsOnlyOnAFlag : Prop :=
  ∀ (s : State) (first : Event) (rest : List Event) (f : Frame) (fs : List Frame) (gaps : List (List EnvStep)),
    f.op = .waitf first rest → s.caller.hostPos = f :: fs → hostMayAct s = true → s.caller.initFailed = false →
    let at' (pos : List Frame) (r : Result) : State :=
      { s with
        env := { s.env with agent := .host, gaps := gaps }
        caller := { s.caller with hostPos := pos, result := r } }
    (∀ e, (first :: rest)[f.idx]? = some e →
      hostTurn gaps s =
        .next
          (at' (⟨f.op, f.idx + 1, { f.locals with flags := f.locals.flags ++ [flagView s e] }⟩ :: fs)
            (.flag (flagView s e)))) ∧
    ((first :: rest)[f.idx]? = none →
      (true ∈ f.locals.flags → hostTurn gaps s = .next (at' fs (.flags f.locals.flags))) ∧
      (true ∉ f.locals.flags → hostTurn gaps s = .next (at' (⟨f.op, 0, .fresh⟩ :: fs) s.caller.result)))

/-- R217, property S7, vectors V67 to V69: a poll that finds `F[PR]` false answers {false, RSSI_INVALID, false} after
its two statements, with no transaction and nothing of the block changed, in particular not the mode. One that finds it
true answers {true, rssiRaw, crcOk} of a present chip after its seven, in Standby, the shadows cleared under family H
and the booleans kept under family S, with the frames of RSSI, status and SETMODE in that order. -/
def Obligations.PollAnswersByTheFlag : Prop :=
  ∀ (s : State) (fs : List Frame), HostAlone s (⟨.pollrx, 0, .fresh⟩ :: fs) →
    (flagView s .pr = false →
      ∃ t : State, Host.Core.run core 2 s = .next t ∧
        t.caller = { s.caller with hostPos := fs, result := .payloadFlags false s.cfg.rssiInvalid false } ∧
        t.chip = s.chip ∧ t.latch = s.latch ∧ t.pins = s.pins ∧ t.port = s.port ∧ t.mode? = s.mode? ∧
        t.env.bus = s.env.bus) ∧
    (flagView s .pr = true → PortReady s → s.cfg.wf = true → s.cfg.present = true →
      Memory.wf s.chip.regs = true →
      ∃ (t : State) (v : Byte), Host.Core.run core 7 s = .next t ∧
        t.caller = { s.caller with hostPos := fs, result := .payloadFlags true s.chip.rssiRaw s.chip.crcOk } ∧
        t.mode? = some .standby ∧
        t.port = { s.port with settlePending := decide (s.mode? = some .sleep) } ∧
        (∀ a, a ≠ s.cfg.regOpmode → t.reg a = s.reg a) ∧
        t.chip = { s.chip with regs := t.chip.regs, hw := t.chip.hw } ∧
        (s.cfg.family = .h → t.latch = { s.latch with shadow1 := 0x00#8, shadow2 := 0x00#8 }) ∧
        (s.cfg.family = .s → t.latch = s.latch) ∧
        t.env.bus =
          s.env.bus ++
            [⟨[addrByte false s.cfg.regRssi, 0#8], [s.chip.rssiRaw]⟩,
              ⟨[addrByte false (s.cfg.regIrq s.cfg.locCrc.reg), 0#8], [v]⟩,
              ⟨[addrByte false s.cfg.regOpmode, 0#8], [s.reg s.cfg.regOpmode]⟩,
              ⟨[addrByte true s.cfg.regOpmode, t.reg s.cfg.regOpmode], []⟩])

/-- R225, R226, property S2: the calls SETPWR x and GETPWR of a Host that stands between operations leave the chip with
x clamped to the family's bounds, and return it (of a present chip). R268, R310: in the settle window either call raises
UnsettledAccess(REG_POWER), changes nothing of the block and stops the Host, its expansion over (log 6). -/
def Obligations.SetpwrThenGetpwrClamps : Prop :=
  ∀ (s : State) (x : Int), s.caller.hostPos = [] → hostMayAct s = true → s.caller.initFailed = false →
    s.port.busSelected = false → s.cfg.wf = true →
    (s.port.settlePending = false → s.env.input = [.call (.setpwr x), .call .getpwr] →
      ∃ t : State, Host.Core.run core 6 s = .next t ∧ t.caller.hostPos = [] ∧ t.env.input = [] ∧
        (s.cfg.present = true → t.caller.result = .power (max s.cfg.pMin (min x s.cfg.pMax))) ∧
        t.chip = { s.chip with outputPower := max s.cfg.pMin (min x s.cfg.pMax) } ∧ t.latch = s.latch ∧
        t.pins = s.pins ∧ t.port = s.port ∧ t.caller.faults = s.caller.faults) ∧
    (∀ p : Pseudo, p = .setpwr x ∨ p = .getpwr → s.port.settlePending = true → s.env.input = [.call p] →
      ∃ t : State, Host.Core.run core 2 s = .next t ∧
        t.caller.faults = insertFault (.unsettledAccess s.cfg.regPower) s.caller.faults ∧
        Fault.unsettledAccess s.cfg.regPower ∈ t.caller.faults ∧ t.caller.hostStopped = true ∧
        t.caller.hostPos = [] ∧ t.chip = s.chip ∧ t.latch = s.latch ∧ t.pins = s.pins ∧ t.port = s.port ∧
        t.env.bus = s.env.bus)

/-- R224: SETADDR changes nothing of the block; it puts one write frame of its byte on the port (to a register no
source numbers, log 21), and faults in the settle window. -/
def Obligations.SetaddrChangesNothingOfTheBlock : Prop :=
  ∀ (s : State) (addr : Byte) (fs : List Frame), HostAlone s (⟨.setaddr addr, 0, .fresh⟩ :: fs) →
    s.port.busSelected = false →
    (s.port.settlePending = false →
      ∃ t : State, Host.Core.run core 2 s = .next t ∧
        t.caller = { s.caller with hostPos := fs, result := .none } ∧
        t.chip = s.chip ∧ t.latch = s.latch ∧ t.pins = s.pins ∧ t.port = s.port ∧ t.cfg = s.cfg ∧
        t.env.bus = s.env.bus ++ [⟨[addrByte true Config.nodeAddressRegister, addr], []⟩]) ∧
    (s.port.settlePending = true →
      ∃ t : State, step s = .next t ∧ t.chip = s.chip ∧ t.latch = s.latch ∧ t.pins = s.pins ∧ t.port = s.port ∧
        t.caller.faults = insertFault (.unsettledAccess Config.nodeAddressRegister) s.caller.faults ∧
        t.caller.hostStopped = true ∧ t.caller.hostPos = [])

/-- R213, R214, R141, program P1: the calls SLEEP and WAKE of a Host that stands between operations, from a settled
chip, end in Standby, settled, with the OTHER bits of a present chip's mode register and the latch as before. -/
def Obligations.SleepThenWakePreservesTheRest : Prop :=
  ∀ s : State, s.env.input = [.call .sleep, .call .wake] → s.caller.hostPos = [] → hostMayAct s = true →
    s.caller.initFailed = false → PortReady s → s.cfg.wf = true → Memory.wf s.chip.regs = true →
    (∃ u : State, Host.Core.run core 3 s = .next u ∧ u.mode? = some .sleep ∧ u.port = s.port ∧ u.latch = s.latch) ∧
    ∃ t : State, Host.Core.run core 7 s = .next t ∧ t.mode? = some .standby ∧ t.port = s.port ∧
      (s.cfg.present = true →
        t.reg s.cfg.regOpmode &&& ~~~ s.cfg.modeMask = s.reg s.cfg.regOpmode &&& ~~~ s.cfg.modeMask) ∧
      (∀ a, a ≠ s.cfg.regOpmode → t.reg a = s.reg a) ∧ t.latch = s.latch ∧ t.caller.hostPos = [] ∧
      t.env.input = [] ∧ t.caller.faults = s.caller.faults

/-- R215: STARTRX, from a settled chip, with no other agent acting: Timeout is mapped onto pin 1 (of a present chip, or
where the two map registers differ) and PayloadReady onto pin 0, family H's duration registers are on or off, F[PR]
and F[TO] are false, the mode is Receive, and the other registers, the FIFO and the power are as before. -/
def Obligations.StartrxArmsTheReceive : Prop :=
  ∀ (s : State) (on : Bool) (fs : List Frame), HostAlone s (⟨.startrx on, 0, .fresh⟩ :: fs) → PortReady s →
    s.cfg.wf = true → Memory.wf s.chip.regs = true →
    ∃ t : State, Host.Core.run core 5 s = .next t ∧ t.mode? = some .receive ∧
      t.reg s.cfg.regPinmapA &&& s.cfg.pin0Mask = s.cfg.pin0SelPr ∧
      (s.cfg.present = true ∨ s.cfg.regPinmapA ≠ s.cfg.regPinmapB →
        t.reg s.cfg.regPinmapB &&& s.cfg.pin1Mask = s.cfg.pin1SelTo) ∧
      (s.cfg.family = .h →
        t.reg s.cfg.regRxto1 = (if on then s.cfg.toOn1 else 0x00#8) ∧
        t.reg s.cfg.regRxto2 = (if on then s.cfg.toOn2 else 0x00#8)) ∧
      (∀ a, a ≠ s.cfg.regOpmode → a ≠ s.cfg.regPinmapA → a ≠ s.cfg.regPinmapB →
        (s.cfg.family = .h → a ≠ s.cfg.regRxto1 ∧ a ≠ s.cfg.regRxto2) → t.reg a = s.reg a) ∧
      flagView t .pr = false ∧ flagView t .tmo = false ∧
      t.port = { s.port with settlePending := decide (s.mode? = some .sleep) } ∧
      t.chip.fifo = s.chip.fifo ∧ t.chip.outputPower = s.chip.outputPower ∧
      t.caller = { s.caller with hostPos := fs, result := .none } ∧ t.cfg = s.cfg

/-- R230, R232, properties S1, S4 and S5: READPL of an encoded frame of a present chip returns the payload's length
clamped to the capacity, with that many of its bytes, and drains the FIFO. R266: a length byte 0 is MalformedLength:
it is recorded, nothing further is popped, and the Host stops, its expansion over (log 6). -/
def Obligations.ReadplReturnsTheEncodedPayload : Prop :=
  ∀ (s : State) (cap : Nat) (fs : List Frame), HostAlone s (⟨.readpl cap, 0, .fresh⟩ :: fs) → PortReady s →
    s.cfg.wf = true → s.cfg.present = true →
    (∀ (payload : List Byte) (dest : Byte), payload.length ≤ s.cfg.maxPayload →
      s.chip.fifo = s.cfg.encodeFrame payload dest →
      ∃ t : State, Host.Core.run core (payload.length + 4) s = .next t ∧
        t.caller = { s.caller with hostPos := fs, result := .count (min payload.length cap) (payload.take cap) } ∧
        t.chip.fifo = [] ∧ t.latch = s.latch ∧ t.port = s.port) ∧
    (∀ q : List Byte, s.chip.fifo = 0x00#8 :: q →
      ∃ t : State, Host.Core.run core 2 s = .next t ∧
        t.caller.faults = insertFault .malformedLength s.caller.faults ∧ Fault.malformedLength ∈ t.caller.faults ∧
        t.caller.hostStopped = true ∧ t.caller.hostPos = [] ∧ t.chip.fifo = q ∧ t.latch = s.latch ∧ t.port = s.port)

/-- R229, R220, property S6: TXPL, with no other agent acting. Its first statement pushes the frame: the length byte,
the destination, and the payload truncated to `MAX_PAYLOAD`; the next four map PacketSent onto pin 0, make F[PS] false,
set Transmit and begin the wait; once the wait has returned, the last three clear the shadows under family H, set
Standby and return the truncated length. -/
def Obligations.TxplSendsTheTruncatedFrame : Prop :=
  ∀ (s : State) (payload : List Byte) (dest : Byte) (l : Locals) (fs : List Frame), PortReady s → s.cfg.wf = true →
    (HostAlone s (⟨.txpl payload dest, 0, l⟩ :: fs) →
      ∃ t : State, step s = .next t ∧
        t.chip =
          { s.chip with
            fifo := s.chip.fifo ++ BitVec.ofNat 8 (min payload.length 63 + 1) :: dest :: payload.take 63 } ∧
        t.caller.hostPos = ⟨.txpl payload dest, 1, l⟩ :: fs ∧ t.latch = s.latch ∧ t.pins = s.pins ∧ t.port = s.port) ∧
    (HostAlone s (⟨.txpl payload dest, 1, l⟩ :: fs) → Memory.wf s.chip.regs = true →
      ∃ t : State, Host.Core.run core 4 s = .next t ∧ t.mode? = some .transmit ∧
        t.reg s.cfg.regPinmapA &&& s.cfg.pin0Mask = s.cfg.pin0SelPs ∧ flagView t .ps = false ∧
        t.chip.fifo = s.chip.fifo ∧
        t.caller.hostPos = ⟨.waitf .ps [], 0, .fresh⟩ :: ⟨.txpl payload dest, 5, l⟩ :: fs) ∧
    (HostAlone s (⟨.txpl payload dest, 5, l⟩ :: fs) → Memory.wf s.chip.regs = true →
      ∃ t : State, Host.Core.run core 3 s = .next t ∧ t.mode? = some .standby ∧
        t.caller = { s.caller with hostPos := fs, result := .count (min payload.length 63) [] } ∧
        (s.cfg.family = .h → t.latch = { s.latch with shadow1 := 0x00#8, shadow2 := 0x00#8 }) ∧
        (s.cfg.family = .s → t.latch = s.latch))

/-- R219, R196, R200, properties S3 to S5: RXPL with no other agent acting. It begins with STARTRX, then waits on
PayloadReady and Timeout, and keeps the wait's Timeout as its snapshot. Once the snapshot has Timeout, the rest ends in
Standby with the power at `P_FALLBACK`, `F[TO]` false, under family H both duration registers zero, and returns 0
whatever F[PR] was. Without it the rest ends in Standby, both duration registers zero under family H, the power
unchanged and the FIFO drained, and returns the encoded frame's payload clamped to the capacity. -/
def Obligations.ReceiveOutcomesReturnToStandby : Prop :=
  ∀ (s : State) (cap : Nat) (on : Bool) (l : Locals) (fs : List Frame), s.cfg.wf = true →
    (HostAlone s (⟨.rxpl cap on, 0, l⟩ :: fs) →
      ∃ t : State, step s = .next t ∧ t.chip = s.chip ∧ t.latch = s.latch ∧
        t.caller.hostPos = ⟨.startrx on, 0, .fresh⟩ :: ⟨.rxpl cap on, 1, l⟩ :: fs) ∧
    (HostAlone s (⟨.rxpl cap on, 1, l⟩ :: fs) →
      ∃ t : State, step s = .next t ∧ t.chip = s.chip ∧ t.latch = s.latch ∧
        t.caller.hostPos = ⟨.waitf .pr [.tmo], 0, .fresh⟩ :: ⟨.rxpl cap on, 2, l⟩ :: fs) ∧
    (∀ pr tmo : Bool, HostAlone s (⟨.rxpl cap on, 2, l⟩ :: fs) → s.caller.result = .flags [pr, tmo] →
      ∃ t : State, step s = .next t ∧ t.chip = s.chip ∧ t.latch = s.latch ∧
        t.caller.hostPos = ⟨.rxpl cap on, 3, { l with tmo := tmo }⟩ :: fs) ∧
    (HostAlone s (⟨.rxpl cap on, 3, l⟩ :: fs) → PortReady s → Memory.wf s.chip.regs = true → s.mode? ≠ some .sleep →
      (l.tmo = true →
        ∃ t : State, Host.Core.run core 6 s = .next t ∧ t.mode? = some .standby ∧
          t.chip.outputPower = s.cfg.pFallback ∧ flagView t .tmo = false ∧
          (s.cfg.family = .h → t.reg s.cfg.regRxto1 = 0x00#8 ∧ t.reg s.cfg.regRxto2 = 0x00#8) ∧
          t.caller.result = .count 0 [] ∧ t.caller.hostPos = fs) ∧
      (∀ (payload : List Byte) (dest : Byte), l.tmo = false → s.cfg.present = true →
        payload.length ≤ s.cfg.maxPayload → s.chip.fifo = s.cfg.encodeFrame payload dest →
        ∃ t : State, Host.Core.run core (payload.length + 9) s = .next t ∧ t.mode? = some .standby ∧
          t.chip.outputPower = s.chip.outputPower ∧ flagView t .tmo = false ∧
          (s.cfg.family = .h → t.reg s.cfg.regRxto1 = 0x00#8 ∧ t.reg s.cfg.regRxto2 = 0x00#8) ∧
          t.chip.fifo = [] ∧ t.caller.result = .count (min payload.length cap) (payload.take cap) ∧
          t.caller.hostPos = fs))

/-- R212, R262, vectors V78 and V79: INIT of a present chip returns true, with `RESET_MODE` in force, the settle window
over, the power default set and every flag clear; INIT of an absent chip returns false and is remembered. It runs
whatever INIT did before. -/
def Obligations.InitBringsTheChipUpOrFails : Prop :=
  ∀ (s : State) (f : Nat) (n b : Byte) (fs : List Frame),
    s.env.input = [] → s.caller.hostPos = ⟨.init f n b, 0, .fresh⟩ :: fs → hostMayAct s = true → s.cfg.wf = true →
    Memory.wf s.chip.regs = true →
    (s.cfg.versionValue ≠ s.cfg.versionInvalid →
      ∃ t : State, Host.Core.run core (match s.cfg.family with | .h => 8 | .s => 10) s = .next t ∧
        t.caller = { s.caller with hostPos := fs, result := .success true, initFailed := false } ∧
        t.mode? = some s.cfg.resetMode ∧ t.port.settlePending = false ∧ t.chip.outputPower = s.cfg.pFallback ∧
        ∀ e, flagView t e = false) ∧
    (s.cfg.versionValue = s.cfg.versionInvalid →
      ∃ t : State, Host.Core.run core 4 s = .next t ∧
        t.caller = { s.caller with hostPos := fs, result := .success false, initFailed := true } ∧
        t.latch = s.latch)
end

