-- ==== Sys2Proof/Laws/State.lean ====
section
/-! SUPPORT. One lemma per component per update of the state, and what the views depend on. -/

namespace Sys2Proof.Machine

/-! `setReg` changes only `chip` and the record `seen`. -/
@[simp] theorem State.setReg_cfg (s : State) (a : Addr) (v : Byte) : (s.setReg a v).cfg = s.cfg := rfl
@[simp] theorem State.setReg_seen (s : State) (a : Addr) (v : Byte) : (s.setReg a v).seen = (s.storeReg a v).seenNow := rfl
@[simp] theorem State.seenNow_services (s : State) : s.seenNow.services = s.seen.services := rfl
@[simp] theorem State.storeReg_cfg (s : State) (a : Addr) (v : Byte) : (s.storeReg a v).cfg = s.cfg := rfl
@[simp] theorem State.storeReg_seen (s : State) (a : Addr) (v : Byte) : (s.storeReg a v).seen = s.seen := rfl
@[simp] theorem State.setReg_latch (s : State) (a : Addr) (v : Byte) : (s.setReg a v).latch = s.latch := rfl
@[simp] theorem State.setReg_pins (s : State) (a : Addr) (v : Byte) : (s.setReg a v).pins = s.pins := rfl
@[simp] theorem State.setReg_port (s : State) (a : Addr) (v : Byte) : (s.setReg a v).port = s.port := rfl
@[simp] theorem State.setReg_caller (s : State) (a : Addr) (v : Byte) : (s.setReg a v).caller = s.caller := rfl
@[simp] theorem State.setReg_env (s : State) (a : Addr) (v : Byte) : (s.setReg a v).env = s.env := rfl

/-! `setHw` changes only `chip`. -/
@[simp] theorem State.setHw_cfg (s : State) (e : Event) (v : Bool) : (s.setHw e v).cfg = s.cfg := rfl
@[simp] theorem State.setHw_seen (s : State) (e : Event) (v : Bool) : (s.setHw e v).seen = s.seen := rfl
@[simp] theorem State.setHw_latch (s : State) (e : Event) (v : Bool) : (s.setHw e v).latch = s.latch := rfl
@[simp] theorem State.setHw_pins (s : State) (e : Event) (v : Bool) : (s.setHw e v).pins = s.pins := rfl
@[simp] theorem State.setHw_port (s : State) (e : Event) (v : Bool) : (s.setHw e v).port = s.port := rfl
@[simp] theorem State.setHw_caller (s : State) (e : Event) (v : Bool) : (s.setHw e v).caller = s.caller := rfl
@[simp] theorem State.setHw_env (s : State) (e : Event) (v : Bool) : (s.setHw e v).env = s.env := rfl

/-! `drew` changes only `env`. -/
@[simp] theorem State.drew_cfg (s : State) (n : Nat) : (s.drew n).cfg = s.cfg := rfl
@[simp] theorem State.drew_seen (s : State) (n : Nat) : (s.drew n).seen = s.seen := rfl
@[simp] theorem State.drew_chip (s : State) (n : Nat) : (s.drew n).chip = s.chip := rfl
@[simp] theorem State.drew_latch (s : State) (n : Nat) : (s.drew n).latch = s.latch := rfl
@[simp] theorem State.drew_pins (s : State) (n : Nat) : (s.drew n).pins = s.pins := rfl
@[simp] theorem State.drew_port (s : State) (n : Nat) : (s.drew n).port = s.port := rfl
@[simp] theorem State.drew_caller (s : State) (n : Nat) : (s.drew n).caller = s.caller := rfl

/-! `sentFrame` changes only `env`. -/
@[simp] theorem State.sentFrame_cfg (s : State) (x : List Byte) (y : List Byte) : (s.sentFrame x y).cfg = s.cfg := rfl
@[simp] theorem State.sentFrame_seen (s : State) (x : List Byte) (y : List Byte) : (s.sentFrame x y).seen = s.seen := rfl
@[simp] theorem State.sentFrame_chip (s : State) (x : List Byte) (y : List Byte) : (s.sentFrame x y).chip = s.chip := rfl
@[simp] theorem State.sentFrame_latch (s : State) (x : List Byte) (y : List Byte) : (s.sentFrame x y).latch = s.latch := rfl
@[simp] theorem State.sentFrame_pins (s : State) (x : List Byte) (y : List Byte) : (s.sentFrame x y).pins = s.pins := rfl
@[simp] theorem State.sentFrame_port (s : State) (x : List Byte) (y : List Byte) : (s.sentFrame x y).port = s.port := rfl
@[simp] theorem State.sentFrame_caller (s : State) (x : List Byte) (y : List Byte) : (s.sentFrame x y).caller = s.caller := rfl

/-! `updatePins` changes only `pins`. -/
@[simp] theorem State.updatePins_cfg (s : State) : (s.updatePins).cfg = s.cfg := rfl
@[simp] theorem State.updatePins_seen (s : State) : (s.updatePins).seen = s.seen := rfl
@[simp] theorem State.updatePins_chip (s : State) : (s.updatePins).chip = s.chip := rfl
@[simp] theorem State.updatePins_latch (s : State) : (s.updatePins).latch = s.latch := rfl
@[simp] theorem State.updatePins_port (s : State) : (s.updatePins).port = s.port := rfl
@[simp] theorem State.updatePins_caller (s : State) : (s.updatePins).caller = s.caller := rfl
@[simp] theorem State.updatePins_env (s : State) : (s.updatePins).env = s.env := rfl

/-! `clearHw` changes only `chip`, `pins`. -/
@[simp] theorem State.clearHw_cfg (s : State) (e : Event) : (s.clearHw e).cfg = s.cfg := rfl
@[simp] theorem State.clearHw_seen (s : State) (e : Event) : (s.clearHw e).seen = s.seen := rfl
@[simp] theorem State.clearHw_latch (s : State) (e : Event) : (s.clearHw e).latch = s.latch := rfl
@[simp] theorem State.clearHw_port (s : State) (e : Event) : (s.clearHw e).port = s.port := rfl
@[simp] theorem State.clearHw_caller (s : State) (e : Event) : (s.clearHw e).caller = s.caller := rfl
@[simp] theorem State.clearHw_env (s : State) (e : Event) : (s.clearHw e).env = s.env := rfl

/-! `enterIsr` changes only `pins` and counts the service. -/
@[simp] theorem enterIsr_cfg (s : State) : (enterIsr s).cfg = s.cfg := rfl
@[simp] theorem enterIsr_services (s : State) : (enterIsr s).seen.services = s.seen.services + 1 := rfl
@[simp] theorem enterIsr_chip (s : State) : (enterIsr s).chip = s.chip := rfl
@[simp] theorem enterIsr_latch (s : State) : (enterIsr s).latch = s.latch := rfl
@[simp] theorem enterIsr_port (s : State) : (enterIsr s).port = s.port := rfl
@[simp] theorem enterIsr_caller (s : State) : (enterIsr s).caller = s.caller := rfl
@[simp] theorem enterIsr_env (s : State) : (enterIsr s).env = s.env := rfl

/-! `leaveIsr` changes only `pins`. -/
@[simp] theorem leaveIsr_cfg (s : State) : (leaveIsr s).cfg = s.cfg := rfl
@[simp] theorem leaveIsr_seen (s : State) : (leaveIsr s).seen = s.seen := rfl
@[simp] theorem leaveIsr_chip (s : State) : (leaveIsr s).chip = s.chip := rfl
@[simp] theorem leaveIsr_latch (s : State) : (leaveIsr s).latch = s.latch := rfl
@[simp] theorem leaveIsr_port (s : State) : (leaveIsr s).port = s.port := rfl
@[simp] theorem leaveIsr_caller (s : State) : (leaveIsr s).caller = s.caller := rfl
@[simp] theorem leaveIsr_env (s : State) : (leaveIsr s).env = s.env := rfl

/-! `closeBus` changes only `port`. -/
@[simp] theorem closeBus_cfg (s : State) : (closeBus s).cfg = s.cfg := rfl
@[simp] theorem closeBus_seen (s : State) : (closeBus s).seen = s.seen := rfl
@[simp] theorem closeBus_chip (s : State) : (closeBus s).chip = s.chip := rfl
@[simp] theorem closeBus_latch (s : State) : (closeBus s).latch = s.latch := rfl
@[simp] theorem closeBus_pins (s : State) : (closeBus s).pins = s.pins := rfl
@[simp] theorem closeBus_caller (s : State) : (closeBus s).caller = s.caller := rfl
@[simp] theorem closeBus_env (s : State) : (closeBus s).env = s.env := rfl

/-! `clearShadows` changes only `latch`. -/
@[simp] theorem clearShadows_cfg (s : State) : (clearShadows s).cfg = s.cfg := rfl
@[simp] theorem clearShadows_seen (s : State) : (clearShadows s).seen = s.seen := rfl
@[simp] theorem clearShadows_chip (s : State) : (clearShadows s).chip = s.chip := rfl
@[simp] theorem clearShadows_pins (s : State) : (clearShadows s).pins = s.pins := rfl
@[simp] theorem clearShadows_port (s : State) : (clearShadows s).port = s.port := rfl
@[simp] theorem clearShadows_caller (s : State) : (clearShadows s).caller = s.caller := rfl
@[simp] theorem clearShadows_env (s : State) : (clearShadows s).env = s.env := rfl

/-! `clearBit` changes only `latch`. -/
@[simp] theorem clearBit_cfg (s : State) (e : Event) : (clearBit e s).cfg = s.cfg := rfl
@[simp] theorem clearBit_seen (s : State) (e : Event) : (clearBit e s).seen = s.seen := rfl
@[simp] theorem clearBit_chip (s : State) (e : Event) : (clearBit e s).chip = s.chip := rfl
@[simp] theorem clearBit_pins (s : State) (e : Event) : (clearBit e s).pins = s.pins := rfl
@[simp] theorem clearBit_port (s : State) (e : Event) : (clearBit e s).port = s.port := rfl
@[simp] theorem clearBit_caller (s : State) (e : Event) : (clearBit e s).caller = s.caller := rfl
@[simp] theorem clearBit_env (s : State) (e : Event) : (clearBit e s).env = s.env := rfl

/-! `dropInput` changes only `env`. -/
@[simp] theorem dropInput_cfg (s : State) : (dropInput s).cfg = s.cfg := rfl
@[simp] theorem dropInput_seen (s : State) : (dropInput s).seen = s.seen := rfl
@[simp] theorem dropInput_chip (s : State) : (dropInput s).chip = s.chip := rfl
@[simp] theorem dropInput_latch (s : State) : (dropInput s).latch = s.latch := rfl
@[simp] theorem dropInput_pins (s : State) : (dropInput s).pins = s.pins := rfl
@[simp] theorem dropInput_port (s : State) : (dropInput s).port = s.port := rfl
@[simp] theorem dropInput_caller (s : State) : (dropInput s).caller = s.caller := rfl

/-! `handOver` changes only `env`. -/
@[simp] theorem handOver_cfg (s : State) (ag : Agent) (g : List (List EnvStep)) : (handOver ag g s).cfg = s.cfg := rfl
@[simp] theorem handOver_seen (s : State) (ag : Agent) (g : List (List EnvStep)) : (handOver ag g s).seen = s.seen := rfl
@[simp] theorem handOver_chip (s : State) (ag : Agent) (g : List (List EnvStep)) : (handOver ag g s).chip = s.chip := rfl
@[simp] theorem handOver_latch (s : State) (ag : Agent) (g : List (List EnvStep)) : (handOver ag g s).latch = s.latch := rfl
@[simp] theorem handOver_pins (s : State) (ag : Agent) (g : List (List EnvStep)) : (handOver ag g s).pins = s.pins := rfl
@[simp] theorem handOver_port (s : State) (ag : Agent) (g : List (List EnvStep)) : (handOver ag g s).port = s.port := rfl
@[simp] theorem handOver_caller (s : State) (ag : Agent) (g : List (List EnvStep)) : (handOver ag g s).caller = s.caller := rfl

/-! `schedule` changes only `env`. -/
@[simp] theorem schedule_cfg (s : State) (ag : Agent) (p : Port) (bs : List Byte) : (schedule ag p bs s).cfg = s.cfg := rfl
@[simp] theorem schedule_seen (s : State) (ag : Agent) (p : Port) (bs : List Byte) : (schedule ag p bs s).seen = s.seen := rfl
@[simp] theorem schedule_chip (s : State) (ag : Agent) (p : Port) (bs : List Byte) : (schedule ag p bs s).chip = s.chip := rfl
@[simp] theorem schedule_latch (s : State) (ag : Agent) (p : Port) (bs : List Byte) : (schedule ag p bs s).latch = s.latch := rfl
@[simp] theorem schedule_pins (s : State) (ag : Agent) (p : Port) (bs : List Byte) : (schedule ag p bs s).pins = s.pins := rfl
@[simp] theorem schedule_port (s : State) (ag : Agent) (p : Port) (bs : List Byte) : (schedule ag p bs s).port = s.port := rfl
@[simp] theorem schedule_caller (s : State) (ag : Agent) (p : Port) (bs : List Byte) : (schedule ag p bs s).caller = s.caller := rfl

/-! `pushFrame` changes only `caller`. -/
@[simp] theorem pushFrame_cfg (s : State) (p : Pseudo) : (pushFrame p s).cfg = s.cfg := rfl
@[simp] theorem pushFrame_seen (s : State) (p : Pseudo) : (pushFrame p s).seen = s.seen := rfl
@[simp] theorem pushFrame_chip (s : State) (p : Pseudo) : (pushFrame p s).chip = s.chip := rfl
@[simp] theorem pushFrame_latch (s : State) (p : Pseudo) : (pushFrame p s).latch = s.latch := rfl
@[simp] theorem pushFrame_pins (s : State) (p : Pseudo) : (pushFrame p s).pins = s.pins := rfl
@[simp] theorem pushFrame_port (s : State) (p : Pseudo) : (pushFrame p s).port = s.port := rfl
@[simp] theorem pushFrame_env (s : State) (p : Pseudo) : (pushFrame p s).env = s.env := rfl

/-! `ret` changes only `caller`. -/
@[simp] theorem ret_cfg (s : State) (r : Result) : (ret r s).cfg = s.cfg := rfl
@[simp] theorem ret_seen (s : State) (r : Result) : (ret r s).seen = s.seen := rfl
@[simp] theorem ret_chip (s : State) (r : Result) : (ret r s).chip = s.chip := rfl
@[simp] theorem ret_latch (s : State) (r : Result) : (ret r s).latch = s.latch := rfl
@[simp] theorem ret_pins (s : State) (r : Result) : (ret r s).pins = s.pins := rfl
@[simp] theorem ret_port (s : State) (r : Result) : (ret r s).port = s.port := rfl
@[simp] theorem ret_env (s : State) (r : Result) : (ret r s).env = s.env := rfl

/-! What each update leaves of the component it changes. -/
@[simp] theorem State.drew_input (s : State) (n : Nat) : (s.drew n).env.input = s.env.input := rfl
@[simp] theorem State.drew_gaps (s : State) (n : Nat) : (s.drew n).env.gaps = s.env.gaps := rfl
@[simp] theorem State.drew_agent (s : State) (n : Nat) : (s.drew n).env.agent = s.env.agent := rfl
@[simp] theorem State.drew_bus (s : State) (n : Nat) : (s.drew n).env.bus = s.env.bus := rfl
@[simp] theorem State.drew_draws (s : State) (n : Nat) : (s.drew n).env.draws = s.env.draws + n := rfl
@[simp] theorem State.sentFrame_input (s : State) (x y : List Byte) : (s.sentFrame x y).env.input = s.env.input := rfl
@[simp] theorem State.sentFrame_gaps (s : State) (x y : List Byte) : (s.sentFrame x y).env.gaps = s.env.gaps := rfl
@[simp] theorem State.sentFrame_agent (s : State) (x y : List Byte) : (s.sentFrame x y).env.agent = s.env.agent := rfl
@[simp] theorem State.sentFrame_draws (s : State) (x y : List Byte) : (s.sentFrame x y).env.draws = s.env.draws := rfl
@[simp] theorem State.sentFrame_bus (s : State) (x y : List Byte) :
    (s.sentFrame x y).env.bus = s.env.bus ++ [⟨x, y⟩] := rfl
@[simp] theorem State.setReg_hw (s : State) (a : Addr) (v : Byte) : (s.setReg a v).chip.hw = s.chip.hw := rfl
@[simp] theorem State.setReg_crcOk (s : State) (a : Addr) (v : Byte) : (s.setReg a v).chip.crcOk = s.chip.crcOk := rfl
@[simp] theorem State.setReg_rssiRaw (s : State) (a : Addr) (v : Byte) :
    (s.setReg a v).chip.rssiRaw = s.chip.rssiRaw := rfl
@[simp] theorem State.setReg_fifo (s : State) (a : Addr) (v : Byte) : (s.setReg a v).chip.fifo = s.chip.fifo := rfl
@[simp] theorem State.setReg_outputPower (s : State) (a : Addr) (v : Byte) :
    (s.setReg a v).chip.outputPower = s.chip.outputPower := rfl
@[simp] theorem State.setHw_regs (s : State) (e : Event) (v : Bool) : (s.setHw e v).chip.regs = s.chip.regs := rfl
@[simp] theorem State.setHw_hw (s : State) (e : Event) (v : Bool) : (s.setHw e v).chip.hw = s.chip.hw.set e v := rfl
@[simp] theorem State.setHw_fifo (s : State) (e : Event) (v : Bool) : (s.setHw e v).chip.fifo = s.chip.fifo := rfl
@[simp] theorem State.setHw_crcOk (s : State) (e : Event) (v : Bool) : (s.setHw e v).chip.crcOk = s.chip.crcOk := rfl
@[simp] theorem State.setHw_rssiRaw (s : State) (e : Event) (v : Bool) :
    (s.setHw e v).chip.rssiRaw = s.chip.rssiRaw := rfl
@[simp] theorem State.setHw_outputPower (s : State) (e : Event) (v : Bool) :
    (s.setHw e v).chip.outputPower = s.chip.outputPower := rfl
@[simp] theorem State.clearHw_chip (s : State) (e : Event) :
    (s.clearHw e).chip = { s.chip with hw := s.chip.hw.set e false } := rfl
@[simp] theorem State.updatePins_level0 (s : State) : s.updatePins.pins.level0 = s.pinFn0 := rfl
@[simp] theorem State.updatePins_level1 (s : State) : s.updatePins.pins.level1 = s.pinFn1 := rfl
@[simp] theorem State.updatePins_inIsr (s : State) : s.updatePins.pins.inIsr = s.pins.inIsr := rfl
@[simp] theorem enterIsr_irqPend (s : State) : (enterIsr s).pins.irqPend = false := rfl
@[simp] theorem enterIsr_inIsr (s : State) : (enterIsr s).pins.inIsr = true := rfl
@[simp] theorem enterIsr_level0 (s : State) : (enterIsr s).pins.level0 = s.pins.level0 := rfl
@[simp] theorem enterIsr_level1 (s : State) : (enterIsr s).pins.level1 = s.pins.level1 := rfl
@[simp] theorem leaveIsr_irqPend (s : State) : (leaveIsr s).pins.irqPend = s.pins.irqPend := rfl
@[simp] theorem leaveIsr_inIsr (s : State) : (leaveIsr s).pins.inIsr = false := rfl
@[simp] theorem leaveIsr_level0 (s : State) : (leaveIsr s).pins.level0 = s.pins.level0 := rfl
@[simp] theorem leaveIsr_level1 (s : State) : (leaveIsr s).pins.level1 = s.pins.level1 := rfl
@[simp] theorem closeBus_settlePending (s : State) : (closeBus s).port.settlePending = s.port.settlePending := rfl
@[simp] theorem closeBus_busSelected (s : State) : (closeBus s).port.busSelected = false := rfl
@[simp] theorem closeBus_sent (s : State) : (closeBus s).port.sent = [] := rfl
@[simp] theorem closeBus_got (s : State) : (closeBus s).port.got = [] := rfl

/-! Views of the state read only `cfg` and `chip`. -/
theorem State.reg_congr {s t : State} (h : t.chip.regs = s.chip.regs) (a : Addr) : t.reg a = s.reg a := by
  simp [State.reg, h]

theorem State.mode?_congr {s t : State} (hc : t.cfg = s.cfg) (h : t.chip.regs = s.chip.regs) :
    t.mode? = s.mode? := by
  simp [State.mode?, State.reg, hc, h]

theorem State.pinFn0_congr {s t : State} (hc : t.cfg = s.cfg) (h : t.chip.regs = s.chip.regs)
    (hh : t.chip.hw = s.chip.hw) : t.pinFn0 = s.pinFn0 := by
  simp only [State.pinFn0, State.reg, hc, h, hh]
  congr

theorem State.pinFn1_congr {s t : State} (hc : t.cfg = s.cfg) (h : t.chip.regs = s.chip.regs)
    (hh : t.chip.hw = s.chip.hw) : t.pinFn1 = s.pinFn1 := by
  simp only [State.pinFn1, State.reg, hc, h, hh]
  congr

/-! `answer` writes only the results; `raise` only the fault record and who stops. -/
@[simp] theorem State.answer_cfg (s : State) (r : Result) : (s.answer r).cfg = s.cfg := by
  unfold State.answer; split <;> rfl
@[simp] theorem State.answer_seen (s : State) (r : Result) : (s.answer r).seen = s.seen := by
  unfold State.answer; split <;> rfl
@[simp] theorem State.answer_chip (s : State) (r : Result) : (s.answer r).chip = s.chip := by
  unfold State.answer; split <;> rfl
@[simp] theorem State.answer_latch (s : State) (r : Result) : (s.answer r).latch = s.latch := by
  unfold State.answer; split <;> rfl
@[simp] theorem State.answer_pins (s : State) (r : Result) : (s.answer r).pins = s.pins := by
  unfold State.answer; split <;> rfl
@[simp] theorem State.answer_port (s : State) (r : Result) : (s.answer r).port = s.port := by
  unfold State.answer; split <;> rfl
@[simp] theorem State.answer_env (s : State) (r : Result) : (s.answer r).env = s.env := by
  unfold State.answer; split <;> rfl
theorem State.answer_host {s : State} (h : s.env.agent = .host) (r : Result) :
    s.answer r = { s with caller := { s.caller with result := r } } := by
  simp [State.answer, h]
@[simp] theorem raise_cfg (ag : Agent) (f : Fault) (s : State) : (raise ag f s).cfg = s.cfg := by cases ag <;> rfl
@[simp] theorem raise_seen (ag : Agent) (f : Fault) (s : State) : (raise ag f s).seen = s.seen := by cases ag <;> rfl
@[simp] theorem raise_chip (ag : Agent) (f : Fault) (s : State) : (raise ag f s).chip = s.chip := by cases ag <;> rfl
@[simp] theorem raise_latch (ag : Agent) (f : Fault) (s : State) : (raise ag f s).latch = s.latch := by cases ag <;> rfl
@[simp] theorem raise_pins (ag : Agent) (f : Fault) (s : State) : (raise ag f s).pins = s.pins := by cases ag <;> rfl
@[simp] theorem raise_port (ag : Agent) (f : Fault) (s : State) : (raise ag f s).port = s.port := by cases ag <;> rfl
@[simp] theorem raise_env (ag : Agent) (f : Fault) (s : State) : (raise ag f s).env = s.env := by cases ag <;> rfl
@[simp] theorem raise_faults (ag : Agent) (f : Fault) (s : State) :
    (raise ag f s).caller.faults = insertFault f s.caller.faults := by cases ag <;> rfl

end Sys2Proof.Machine
end

