-- ==== Sys2Proof/Laws/Cfg.lean ====
section
/-! SUPPORT. What a well-formed configuration gives (R5), and the field operations of the read-modify-writes. -/

namespace Sys2Proof.Machine

/-- The constraints of R5 that proofs use. -/
structure CfgFacts (c : Cfg) : Prop where
  mapA : (c.regPinmapA :: c.decoded).Nodup
  mapB : (c.regPinmapB :: c.decoded).Nodup
  pinMasks : c.regPinmapA = c.regPinmapB → c.pin0Mask &&& c.pin1Mask = 0#8
  rxto : c.regRxto1 ≠ c.regRxto2
  modeIn : ∀ m, c.modeBits m &&& c.modeMask = c.modeBits m
  modesDistinct :
    [c.modePatterns.sleep, c.modePatterns.standby, c.modePatterns.frequencySynth, c.modePatterns.transmit,
      c.modePatterns.receive].Nodup
  psIn : c.pin0SelPs &&& c.pin0Mask = c.pin0SelPs
  prIn : c.pin0SelPr &&& c.pin0Mask = c.pin0SelPr
  selDistinct : c.pin0SelPs ≠ c.pin0SelPr
  toIn : c.pin1SelTo &&& c.pin1Mask = c.pin1SelTo
  locs : [c.locPr, c.locPs, c.locTo, c.locCrc].Nodup
  powerRange : c.pMin ≤ c.pMax
  fallbackLow : c.pMin ≤ c.pFallback
  fallbackHigh : c.pFallback ≤ c.pMax
  payload : c.maxPayload = 63

theorem cfgFacts {c : Cfg} (h : c.wf = true) : CfgFacts c := by
  unfold Cfg.wf at h
  simp only [Bool.and_eq_true, decide_eq_true_eq, beq_iff_eq, List.all_cons, List.all_nil] at h
  obtain ⟨⟨⟨⟨⟨⟨⟨⟨⟨⟨⟨⟨⟨⟨⟨⟨⟨⟨⟨⟨⟨⟨h1, h2⟩, h3⟩, h4⟩, _⟩, h6⟩, h7⟩, _⟩, _⟩, h10⟩, h11⟩, h12⟩, h13⟩, h14⟩, _⟩, _⟩, h17⟩,
    h18⟩, h19⟩, h20⟩, _⟩, _⟩, _⟩ := h
  refine ⟨h1, h2, fun e => by simpa [e] using h4, h3, ?_, h7, h10, h11, h12, h13, h14, h17, h18, h19, h20⟩
  intro m
  cases m <;> simp [Cfg.modeBits, h6]

/-! ## Register addresses -/

theorem opmode_ne {c : Cfg} (h : c.wf = true) :
    c.regOpmode ≠ c.regFifo ∧ c.regOpmode ≠ c.regIrq1 ∧ c.regOpmode ≠ c.regIrq2 ∧ c.regOpmode ≠ c.regVersion ∧
      c.regOpmode ≠ c.regPower ∧ c.regOpmode ≠ c.regRssi := by
  have h1 := (cfgFacts h).mapA
  simp [Cfg.decoded] at h1
  refine ⟨?_, ?_, ?_, ?_, ?_, ?_⟩ <;> intro e <;> simp_all

theorem irq_ne {c : Cfg} (h : c.wf = true) :
    c.regIrq1 ≠ c.regFifo ∧ c.regIrq2 ≠ c.regFifo ∧ c.regIrq2 ≠ c.regIrq1 := by
  have h1 := (cfgFacts h).mapA
  simp [Cfg.decoded] at h1
  refine ⟨?_, ?_, ?_⟩ <;> intro e <;> simp_all

theorem version_ne {c : Cfg} (h : c.wf = true) :
    c.regVersion ≠ c.regFifo ∧ c.regVersion ≠ c.regIrq1 ∧ c.regVersion ≠ c.regIrq2 := by
  have h1 := (cfgFacts h).mapA
  simp [Cfg.decoded] at h1
  refine ⟨?_, ?_, ?_⟩ <;> intro e <;> simp_all

theorem power_ne {c : Cfg} (h : c.wf = true) :
    c.regPower ≠ c.regFifo ∧ c.regPower ≠ c.regIrq1 ∧ c.regPower ≠ c.regIrq2 := by
  have h1 := (cfgFacts h).mapA
  simp [Cfg.decoded] at h1
  refine ⟨?_, ?_, ?_⟩ <;> intro e <;> simp_all

theorem rssi_ne {c : Cfg} (h : c.wf = true) :
    c.regRssi ≠ c.regFifo ∧ c.regRssi ≠ c.regIrq1 ∧ c.regRssi ≠ c.regIrq2 ∧ c.regRssi ≠ c.regVersion := by
  have h1 := (cfgFacts h).mapA
  simp [Cfg.decoded] at h1
  refine ⟨?_, ?_, ?_, ?_⟩ <;> intro e <;> simp_all

theorem pinmap_ne {c : Cfg} (h : c.wf = true) {a : Addr} (ha : a = c.regPinmapA ∨ a = c.regPinmapB) :
    a ≠ c.regFifo ∧ a ≠ c.regOpmode ∧ a ≠ c.regIrq1 ∧ a ≠ c.regIrq2 ∧ a ≠ c.regVersion ∧ a ≠ c.regPower ∧
      a ≠ c.regRssi := by
  have h1 := (cfgFacts h).mapA
  have h2 := (cfgFacts h).mapB
  simp [Cfg.decoded] at h1 h2
  rcases ha with e | e <;> subst e <;> simp_all

theorem rxto_ne {c : Cfg} (h : c.wf = true) (hf : c.family = .h) {a : Addr} (ha : a = c.regRxto1 ∨ a = c.regRxto2) :
    a ≠ c.regFifo ∧ a ≠ c.regOpmode ∧ a ≠ c.regIrq1 ∧ a ≠ c.regIrq2 ∧ a ≠ c.regVersion ∧ a ≠ c.regPower ∧
      a ≠ c.regRssi ∧ a ≠ c.regPinmapA ∧ a ≠ c.regPinmapB := by
  have h1 := (cfgFacts h).mapA
  have h2 := (cfgFacts h).mapB
  simp [Cfg.decoded, hf] at h1 h2
  rcases ha with e | e <;> subst e <;> refine ⟨?_, ?_, ?_, ?_, ?_, ?_, ?_, ?_, ?_⟩ <;> intro e <;> simp_all

/-- No rule keeps a status register for the Host. -/
theorem irq_not_hostOnly {c : Cfg} (h : c.wf = true) (k : StatusReg) : c.hostOnly (c.regIrq k) = false := by
  have f1 := irq_ne h
  have f2 := opmode_ne h
  have f3 := pinmap_ne h (.inl rfl)
  have f4 := pinmap_ne h (.inr rfl)
  rw [← Bool.not_eq_true]
  intro e
  simp only [Cfg.hostOnly, Bool.or_eq_true, Bool.and_eq_true, decide_eq_true_eq, beq_iff_eq, List.mem_cons,
    List.not_mem_nil, or_false] at e
  rcases e with (e | e | e | e) | ⟨hf, e | e⟩
  · cases k <;> simp [Cfg.regIrq] at e <;> simp_all
  · cases k <;> simp [Cfg.regIrq] at e <;> simp_all
  · cases k <;> simp [Cfg.regIrq] at e <;> simp_all
  · cases k <;> simp [Cfg.regIrq] at e <;> simp_all
  · have := rxto_ne h hf (.inl rfl)
    cases k <;> simp [Cfg.regIrq] at e <;> simp_all
  · have := rxto_ne h hf (.inr rfl)
    cases k <;> simp [Cfg.regIrq] at e <;> simp_all

/-! ## The MODE field (R95) and the pin fields (R97) -/

theorem modeBits_inj {c : Cfg} (h : c.wf = true) {m n : Mode} (e : c.modeBits m = c.modeBits n) : m = n := by
  have h7 := (cfgFacts h).modesDistinct
  simp at h7
  obtain ⟨⟨_, _, _, _⟩, ⟨_, _, _⟩, ⟨_, _⟩, _⟩ := h7
  cases m <;> cases n <;> simp_all [Cfg.modeBits]

theorem modeOf_eq_some {c : Cfg} (h : c.wf = true) {v : Byte} {m : Mode} :
    c.modeOf v = some m ↔ c.modeBits m = v &&& c.modeMask := by
  unfold Cfg.modeOf
  constructor
  · intro e
    simpa using List.find?_some e
  · intro e
    have hs : ([Mode.sleep, .standby, .frequencySynth, .transmit, .receive].find? fun m =>
        c.modeBits m == (v &&& c.modeMask)).isSome := by
      rw [List.find?_isSome]
      exact ⟨m, by cases m <;> simp, by simp [e]⟩
    obtain ⟨n, hn⟩ := Option.isSome_iff_exists.mp hs
    rw [hn]
    have := List.find?_some hn
    simp at this
    rw [modeBits_inj h (this.trans e.symm)]

theorem putField_keeps (v m x : Byte) (h : x &&& m = x) : putField v m x &&& ~~~ m = v &&& ~~~ m := by
  unfold putField
  apply BitVec.eq_of_getLsbD_eq
  intro i hi
  have := congrArg (fun b => b.getLsbD i) h
  simp at this ⊢
  cases hm : m.getLsbD i <;> cases hx : x.getLsbD i <;> simp_all

theorem putField_selects (v m x : Byte) (h : x &&& m = x) : putField v m x &&& m = x := by
  unfold putField
  apply BitVec.eq_of_getLsbD_eq
  intro i hi
  have := congrArg (fun b => b.getLsbD i) h
  simp at this ⊢
  cases hm : m.getLsbD i <;> cases hx : x.getLsbD i <;> simp_all

theorem modeOf_putField {c : Cfg} (h : c.wf = true) (v : Byte) (m : Mode) :
    c.modeOf (putField v c.modeMask (c.modeBits m)) = some m := by
  rw [modeOf_eq_some h, putField_selects _ _ _ ((cfgFacts h).modeIn m)]

/-! ## Bits of a byte -/

theorem bitMask_getElem (b b' : Fin 8) : (bitMask b)[b'.val] = decide (b' = b) := by
  revert b b'
  decide

theorem bitOf_putBit (v : Byte) (b b' : Fin 8) (x : Bool) :
    bitOf (putBit v b x) b' = if b' = b then x else bitOf v b' := by
  unfold bitOf putBit
  cases x <;> by_cases e : b' = b <;> simp [bitMask_getElem, e]

theorem bitOf_or_bitMask (v : Byte) (b b' : Fin 8) : bitOf (v ||| bitMask b) b' = (bitOf v b' || decide (b' = b)) := by
  simp [bitOf, bitMask_getElem]

/-! ## The status views (R26) -/

theorem statusView_event {s : State} (hc : s.cfg.wf = true) (d : Byte) (k : StatusReg) (e : Event)
    (h : (s.cfg.loc e).reg = k) : bitOf (statusView k d s) (s.cfg.loc e).bit = s.chip.hw.get e := by
  have hl := (cfgFacts hc).locs
  simp at hl
  have ext : ∀ l l' : Loc, l ≠ l' → l.reg = l'.reg → l.bit ≠ l'.bit := by
    rintro ⟨a, b⟩ ⟨a', b'⟩ h1 h2 h3
    exact h1 (by simp_all)
  obtain ⟨⟨a1, a2, a3⟩, ⟨a4, a5⟩, a6⟩ := hl
  have b1 := ext _ _ a1
  have b2 := ext _ _ a2
  have b3 := ext _ _ a3
  have b4 := ext _ _ a4
  have b5 := ext _ _ a5
  have b6 := ext _ _ a6
  cases e <;> simp only [Cfg.loc] at h ⊢ <;> simp only [statusView, putLoc, EventBits.get] <;>
    simp only [h] at b1 b2 b3 b4 b5 b6 ⊢ <;>
    by_cases h1 : s.cfg.locPr.reg = k <;> by_cases h2 : s.cfg.locPs.reg = k <;>
    by_cases h3 : s.cfg.locTo.reg = k <;> by_cases h4 : s.cfg.locCrc.reg = k <;> simp_all [bitOf_putBit]

theorem statusView_crc {s : State} (d : Byte) (k : StatusReg) (h : s.cfg.locCrc.reg = k) :
    bitOf (statusView k d s) s.cfg.locCrc.bit = s.chip.crcOk := by
  simp [statusView, putLoc, h, bitOf_putBit]

theorem hwAfterRead_get (k : StatusReg) (s : State) (e : Event) :
    (hwAfterRead k s).get e = (s.chip.hw.get e && decide ((s.cfg.loc e).reg ≠ k)) := by
  cases e <;> rfl

theorem EventBits.get_set (x : EventBits) (e e' : Event) (v : Bool) :
    (x.set e v).get e' = if e' = e then v else x.get e' := by
  cases e <;> cases e' <;> rfl

/-! ## The pin functions (R255) and UpdatePins (R256) -/

theorem pinFn0_of_pr {s : State} (h : s.reg s.cfg.regPinmapA &&& s.cfg.pin0Mask = s.cfg.pin0SelPr) :
    s.pinFn0 = s.chip.hw.pr := by
  simp only [State.pinFn0]
  rw [if_pos h]

theorem pinFn0_of_ps {s : State} (hne : s.cfg.pin0SelPs ≠ s.cfg.pin0SelPr)
    (h : s.reg s.cfg.regPinmapA &&& s.cfg.pin0Mask = s.cfg.pin0SelPs) : s.pinFn0 = s.chip.hw.ps := by
  simp only [State.pinFn0]
  rw [if_neg (by rw [h]; exact hne), if_pos h]

theorem pinFn1_of_to {s : State} (h : s.reg s.cfg.regPinmapB &&& s.cfg.pin1Mask = s.cfg.pin1SelTo) :
    s.pinFn1 = s.chip.hw.tmo := by
  simp only [State.pinFn1]
  rw [if_pos h]

theorem pinFn_of_clear {s : State} (h : s.chip.hw = ⟨false, false, false⟩) :
    s.pinFn0 = false ∧ s.pinFn1 = false := by
  simp only [State.pinFn0, State.pinFn1, h]
  constructor <;> repeat' split
  all_goals rfl

theorem updatePins_rise0 {s : State} (h : s.pins.level0 = false) (h1 : s.pinFn0 = true) :
    s.updatePins.pins.irqPend = true := by
  simp [State.updatePins, h, h1]

theorem updatePins_rise1 {s : State} (h : s.pins.level1 = false) (h1 : s.pinFn1 = true) :
    s.updatePins.pins.irqPend = true := by
  simp [State.updatePins, h, h1]

end Sys2Proof.Machine
end

