-- ==== Sys2Proof/Laws/Decode.lean ====
section
/-! SUPPORT. The address byte: the two readers and the writer agree (R91, R92). -/

namespace Sys2Proof

theorem addrOf_addrByte : ∀ (w : Bool) (a : Addr), addrOf (addrByte w a) = a := by decide

theorem writeBit_addrByte : ∀ (w : Bool) (a : Addr), writeBit (addrByte w a) = w := by decide

theorem addrByte_writeBit_addrOf : ∀ ab : Byte, addrByte (writeBit ab) (addrOf ab) = ab := by decide

end Sys2Proof
end

