-- ==== Sys2Proof/Laws/Memory.lean ====
section
/-! SUPPORT. The laws of the register file: read after write, canonical form kept. -/

namespace Sys2Proof.Machine

theorem Memory.read_write_same (m : Memory) (a : Nat) (v : Byte) (h : m.Pairwise fun x y => x.1 < y.1) :
    Memory.read (Memory.write m a v) a = v := by
  induction m with
  | nil => by_cases hv : v = 0#8 <;> simp [Memory.write, Memory.read, hv]
  | cons x m ih =>
    obtain ⟨k, w⟩ := x
    rw [List.pairwise_cons] at h
    have absent : ∀ m' : Memory, (∀ y ∈ m', a < y.1) → Memory.read m' a = 0#8 := by
      intro m' hm
      induction m' with
      | nil => rfl
      | cons y m' ih' =>
        have h1 := hm y (by simp)
        have h2 : y.1 ≠ a := by omega
        simp only [Memory.read, h2, if_false]
        exact ih' fun z hz => hm z (by simp [hz])
    simp only [Memory.write]
    split
    · rename_i hk
      split
      · rename_i hv
        subst hv
        refine absent _ fun y hy => ?_
        rcases List.mem_cons.1 hy with rfl | hy
        · exact hk
        · have := h.1 y hy; simp only at this; omega
      · simp [Memory.read]
    · rename_i hk
      split
      · rename_i ha
        split
        · rename_i hv
          subst hv
          refine absent _ fun y hy => ?_
          have := h.1 y hy; simp only at this; omega
        · simp [Memory.read]
      · rename_i ha
        have hne : k ≠ a := fun e => ha e.symm
        simp only [Memory.read, hne, if_false]
        exact ih h.2

theorem Memory.read_write_other (m : Memory) (a b : Nat) (v : Byte) (hb : b ≠ a) :
    Memory.read (Memory.write m a v) b = Memory.read m b := by
  induction m with
  | nil => by_cases hv : v = 0#8 <;> simp [Memory.write, Memory.read, hv, Ne.symm hb]
  | cons x m ih =>
    obtain ⟨k, w⟩ := x
    simp only [Memory.write]
    split
    · split
      · rfl
      · simp [Memory.read, Ne.symm hb]
    · split
      · rename_i ha
        subst ha
        split <;> simp [Memory.read, Ne.symm hb]
      · simp only [Memory.read, ih]

theorem Memory.mem_write {m : Memory} {a : Nat} {v : Byte} {x : Host.Cell} (hx : x ∈ Memory.write m a v) :
    x ∈ m ∨ (x = (a, v) ∧ v ≠ 0#8) := by
  induction m with
  | nil =>
    by_cases hv : v = 0#8
    · simp [Memory.write, hv] at hx
    · simp [Memory.write, hv] at hx; exact .inr ⟨hx, hv⟩
  | cons y m ih =>
    obtain ⟨k, w⟩ := y
    simp only [Memory.write] at hx
    split at hx
    · split at hx
      · exact .inl hx
      · rcases List.mem_cons.1 hx with rfl | hx
        · exact .inr ⟨rfl, ‹_›⟩
        · exact .inl hx
    · split at hx
      · split at hx
        · exact .inl (List.mem_cons_of_mem _ hx)
        · rcases List.mem_cons.1 hx with rfl | hx
          · exact .inr ⟨rfl, ‹_›⟩
          · exact .inl (List.mem_cons_of_mem _ hx)
      · rcases List.mem_cons.1 hx with rfl | hx
        · exact .inl (by simp)
        · rcases ih hx with h | h
          · exact .inl (List.mem_cons_of_mem _ h)
          · exact .inr h

theorem Memory.write_pairwise {m : Memory} (a : Nat) (v : Byte) (h : m.Pairwise fun x y => x.1 < y.1) :
    (Memory.write m a v).Pairwise fun x y => x.1 < y.1 := by
  induction m with
  | nil => by_cases hv : v = 0#8 <;> simp [Memory.write, hv]
  | cons y m ih =>
    obtain ⟨k, w⟩ := y
    have h' := List.pairwise_cons.1 h
    simp only [Memory.write]
    split
    · rename_i hk
      split
      · exact h
      · refine List.pairwise_cons.2 ⟨fun z hz => ?_, h⟩
        rcases List.mem_cons.1 hz with rfl | hz
        · exact hk
        · have := h'.1 z hz; simp only at this ⊢; omega
    · rename_i hk
      split
      · rename_i ha
        subst ha
        split
        · exact h'.2
        · exact List.pairwise_cons.2 ⟨h'.1, h'.2⟩
      · rename_i ha
        refine List.pairwise_cons.2 ⟨fun z hz => ?_, ih h'.2⟩
        rcases Memory.mem_write hz with hz | ⟨rfl, _⟩
        · exact h'.1 z hz
        · simp only; omega

theorem Memory.wf_iff (m : Memory) :
    Memory.wf m = true ↔ (m.Pairwise fun x y => x.1 < y.1) ∧ ∀ x ∈ m, x.1 < 128 ∧ x.2 ≠ 0#8 := by
  simp [Memory.wf]

/-- Every write of a register keeps the canonical form. -/
theorem Memory.wf_write {m : Memory} (h : Memory.wf m = true) (a : Addr) (v : Byte) :
    Memory.wf (Memory.write m a.toNat v) = true := by
  rw [Memory.wf_iff] at h ⊢
  refine ⟨Memory.write_pairwise _ _ h.1, fun x hx => ?_⟩
  rcases Memory.mem_write hx with hx | ⟨rfl, hv⟩
  · exact h.2 x hx
  · exact ⟨a.isLt, hv⟩

theorem State.setReg_wf {s : State} (h : Memory.wf s.chip.regs = true) (a : Addr) (v : Byte) :
    Memory.wf (s.setReg a v).chip.regs = true := Memory.wf_write h a v

theorem State.reg_setReg_same {s : State} (h : Memory.wf s.chip.regs = true) (a : Addr) (v : Byte) :
    (s.setReg a v).reg a = v := Memory.read_write_same _ _ _ ((Memory.wf_iff _).1 h).1

theorem State.reg_setReg_other (s : State) {a b : Addr} (v : Byte) (hb : b ≠ a) :
    (s.setReg a v).reg b = s.reg b :=
  Memory.read_write_other _ _ _ _ fun e => hb (BitVec.eq_of_toNat_eq e)

end Sys2Proof.Machine
end

