-- ==== Sys2Proof/Laws/Ops.lean ====
section
/-! SUPPORT. Frames of the shared operations, and what a transaction can answer. -/

namespace Sys2Proof.Machine

/-! `statusEffect` changes only the hardware flags and the pins (R66, R67). -/
@[simp] theorem statusEffect_cfg (s : State) (k : StatusReg) : (statusEffect k s).cfg = s.cfg := by
  unfold statusEffect; split <;> rfl
@[simp] theorem statusEffect_seen (s : State) (k : StatusReg) : (statusEffect k s).seen = s.seen := by
  unfold statusEffect; split <;> rfl
@[simp] theorem statusEffect_latch (s : State) (k : StatusReg) : (statusEffect k s).latch = s.latch := by
  unfold statusEffect; split <;> rfl
@[simp] theorem statusEffect_port (s : State) (k : StatusReg) : (statusEffect k s).port = s.port := by
  unfold statusEffect; split <;> rfl
@[simp] theorem statusEffect_caller (s : State) (k : StatusReg) : (statusEffect k s).caller = s.caller := by
  unfold statusEffect; split <;> rfl
@[simp] theorem statusEffect_env (s : State) (k : StatusReg) : (statusEffect k s).env = s.env := by
  unfold statusEffect; split <;> rfl
@[simp] theorem statusEffect_chip_regs (s : State) (k : StatusReg) : (statusEffect k s).chip.regs = s.chip.regs := by
  unfold statusEffect; split <;> rfl
@[simp] theorem statusEffect_chip_crcOk (s : State) (k : StatusReg) : (statusEffect k s).chip.crcOk = s.chip.crcOk := by
  unfold statusEffect; split <;> rfl
@[simp] theorem statusEffect_chip_rssiRaw (s : State) (k : StatusReg) : (statusEffect k s).chip.rssiRaw = s.chip.rssiRaw := by
  unfold statusEffect; split <;> rfl
@[simp] theorem statusEffect_chip_outputPower (s : State) (k : StatusReg) : (statusEffect k s).chip.outputPower = s.chip.outputPower := by
  unfold statusEffect; split <;> rfl
@[simp] theorem statusEffect_chip_fifo (s : State) (k : StatusReg) : (statusEffect k s).chip.fifo = s.chip.fifo := by
  unfold statusEffect; split <;> rfl

/-! `fifoPop` changes only the FIFO, the PayloadReady flag and the pins (R62, R252). -/
@[simp] theorem fifoPop_cfg (s : State) (n : Nat) : (fifoPop n s).cfg = s.cfg := by
  unfold fifoPop; dsimp only; split <;> rfl
@[simp] theorem fifoPop_seen (s : State) (n : Nat) : (fifoPop n s).seen = s.seen := by
  unfold fifoPop; dsimp only; split <;> rfl
@[simp] theorem fifoPop_latch (s : State) (n : Nat) : (fifoPop n s).latch = s.latch := by
  unfold fifoPop; dsimp only; split <;> rfl
@[simp] theorem fifoPop_port (s : State) (n : Nat) : (fifoPop n s).port = s.port := by
  unfold fifoPop; dsimp only; split <;> rfl
@[simp] theorem fifoPop_caller (s : State) (n : Nat) : (fifoPop n s).caller = s.caller := by
  unfold fifoPop; dsimp only; split <;> rfl
@[simp] theorem fifoPop_env (s : State) (n : Nat) : (fifoPop n s).env = s.env := by
  unfold fifoPop; dsimp only; split <;> rfl
@[simp] theorem fifoPop_chip_regs (s : State) (n : Nat) : (fifoPop n s).chip.regs = s.chip.regs := by
  unfold fifoPop; dsimp only; split <;> rfl
@[simp] theorem fifoPop_chip_crcOk (s : State) (n : Nat) : (fifoPop n s).chip.crcOk = s.chip.crcOk := by
  unfold fifoPop; dsimp only; split <;> rfl
@[simp] theorem fifoPop_chip_rssiRaw (s : State) (n : Nat) : (fifoPop n s).chip.rssiRaw = s.chip.rssiRaw := by
  unfold fifoPop; dsimp only; split <;> rfl
@[simp] theorem fifoPop_chip_outputPower (s : State) (n : Nat) : (fifoPop n s).chip.outputPower = s.chip.outputPower := by
  unfold fifoPop; dsimp only; split <;> rfl

/-! `readEffect` changes only the FIFO, the hardware flags and the pins (R66 to R68). -/
@[simp] theorem readEffect_cfg (s : State) (a : Addr) : (readEffect a s).cfg = s.cfg := by
  unfold readEffect; repeat' split
  all_goals simp
@[simp] theorem readEffect_seen (s : State) (a : Addr) : (readEffect a s).seen = s.seen := by
  unfold readEffect; repeat' split
  all_goals simp
@[simp] theorem readEffect_latch (s : State) (a : Addr) : (readEffect a s).latch = s.latch := by
  unfold readEffect; repeat' split
  all_goals simp
@[simp] theorem readEffect_port (s : State) (a : Addr) : (readEffect a s).port = s.port := by
  unfold readEffect; repeat' split
  all_goals simp
@[simp] theorem readEffect_caller (s : State) (a : Addr) : (readEffect a s).caller = s.caller := by
  unfold readEffect; repeat' split
  all_goals simp
@[simp] theorem readEffect_env (s : State) (a : Addr) : (readEffect a s).env = s.env := by
  unfold readEffect; repeat' split
  all_goals simp
@[simp] theorem readEffect_chip_regs (s : State) (a : Addr) : (readEffect a s).chip.regs = s.chip.regs := by
  unfold readEffect; repeat' split
  all_goals simp
@[simp] theorem readEffect_chip_crcOk (s : State) (a : Addr) : (readEffect a s).chip.crcOk = s.chip.crcOk := by
  unfold readEffect; repeat' split
  all_goals simp
@[simp] theorem readEffect_chip_rssiRaw (s : State) (a : Addr) : (readEffect a s).chip.rssiRaw = s.chip.rssiRaw := by
  unfold readEffect; repeat' split
  all_goals simp
@[simp] theorem readEffect_chip_outputPower (s : State) (a : Addr) : (readEffect a s).chip.outputPower = s.chip.outputPower := by
  unfold readEffect; repeat' split
  all_goals simp

/-! `modeClears` changes only the hardware flags and the pins (R252). -/
@[simp] theorem modeClears_cfg (s : State) (old : Option Mode) : (modeClears old s).cfg = s.cfg := by
  unfold modeClears; dsimp only; repeat' split
  all_goals simp
@[simp] theorem modeClears_seen (s : State) (old : Option Mode) : (modeClears old s).seen = s.seen := by
  unfold modeClears; dsimp only; repeat' split
  all_goals simp
@[simp] theorem modeClears_latch (s : State) (old : Option Mode) : (modeClears old s).latch = s.latch := by
  unfold modeClears; dsimp only; repeat' split
  all_goals simp
@[simp] theorem modeClears_port (s : State) (old : Option Mode) : (modeClears old s).port = s.port := by
  unfold modeClears; dsimp only; repeat' split
  all_goals simp
@[simp] theorem modeClears_caller (s : State) (old : Option Mode) : (modeClears old s).caller = s.caller := by
  unfold modeClears; dsimp only; repeat' split
  all_goals simp
@[simp] theorem modeClears_env (s : State) (old : Option Mode) : (modeClears old s).env = s.env := by
  unfold modeClears; dsimp only; repeat' split
  all_goals simp
@[simp] theorem modeClears_chip_regs (s : State) (old : Option Mode) : (modeClears old s).chip.regs = s.chip.regs := by
  unfold modeClears; dsimp only; repeat' split
  all_goals simp
@[simp] theorem modeClears_chip_crcOk (s : State) (old : Option Mode) : (modeClears old s).chip.crcOk = s.chip.crcOk := by
  unfold modeClears; dsimp only; repeat' split
  all_goals simp
@[simp] theorem modeClears_chip_rssiRaw (s : State) (old : Option Mode) : (modeClears old s).chip.rssiRaw = s.chip.rssiRaw := by
  unfold modeClears; dsimp only; repeat' split
  all_goals simp
@[simp] theorem modeClears_chip_outputPower (s : State) (old : Option Mode) : (modeClears old s).chip.outputPower = s.chip.outputPower := by
  unfold modeClears; dsimp only; repeat' split
  all_goals simp
@[simp] theorem modeClears_chip_fifo (s : State) (old : Option Mode) : (modeClears old s).chip.fifo = s.chip.fifo := by
  unfold modeClears; dsimp only; repeat' split
  all_goals simp

/-! `settleAfter` changes only `settlePending` (R141). -/
@[simp] theorem settleAfter_cfg (s : State) (old : Option Mode) : (settleAfter old s).cfg = s.cfg := by
  unfold settleAfter; split <;> rfl
@[simp] theorem settleAfter_seen (s : State) (old : Option Mode) : (settleAfter old s).seen = s.seen := by
  unfold settleAfter; split <;> rfl
@[simp] theorem settleAfter_chip (s : State) (old : Option Mode) : (settleAfter old s).chip = s.chip := by
  unfold settleAfter; split <;> rfl
@[simp] theorem settleAfter_latch (s : State) (old : Option Mode) : (settleAfter old s).latch = s.latch := by
  unfold settleAfter; split <;> rfl
@[simp] theorem settleAfter_pins (s : State) (old : Option Mode) : (settleAfter old s).pins = s.pins := by
  unfold settleAfter; split <;> rfl
@[simp] theorem settleAfter_caller (s : State) (old : Option Mode) : (settleAfter old s).caller = s.caller := by
  unfold settleAfter; split <;> rfl
@[simp] theorem settleAfter_env (s : State) (old : Option Mode) : (settleAfter old s).env = s.env := by
  unfold settleAfter; split <;> rfl
@[simp] theorem settleAfter_port_busSelected (s : State) (old : Option Mode) : (settleAfter old s).port.busSelected = s.port.busSelected := by
  unfold settleAfter; split <;> rfl
@[simp] theorem settleAfter_port_owner (s : State) (old : Option Mode) : (settleAfter old s).port.owner = s.port.owner := by
  unfold settleAfter; split <;> rfl
@[simp] theorem settleAfter_port_sent (s : State) (old : Option Mode) : (settleAfter old s).port.sent = s.port.sent := by
  unfold settleAfter; split <;> rfl
@[simp] theorem settleAfter_port_got (s : State) (old : Option Mode) : (settleAfter old s).port.got = s.port.got := by
  unfold settleAfter; split <;> rfl

/-! `writeOpmode` changes the mode register, the hardware flags, `settlePending` and the pins (R124). -/
@[simp] theorem writeOpmode_cfg (s : State) (d : Byte) : (writeOpmode d s).cfg = s.cfg := by
  simp [writeOpmode]
@[simp] theorem writeOpmode_seen (s : State) (d : Byte) :
    (writeOpmode d s).seen = (s.storeReg s.cfg.regOpmode d).seenNow := by
  simp [writeOpmode]
@[simp] theorem writeOpmode_latch (s : State) (d : Byte) : (writeOpmode d s).latch = s.latch := by
  simp [writeOpmode]
@[simp] theorem writeOpmode_caller (s : State) (d : Byte) : (writeOpmode d s).caller = s.caller := by
  simp [writeOpmode]
@[simp] theorem writeOpmode_env (s : State) (d : Byte) : (writeOpmode d s).env = s.env := by
  simp [writeOpmode]
@[simp] theorem writeOpmode_port_busSelected (s : State) (d : Byte) : (writeOpmode d s).port.busSelected = s.port.busSelected := by
  simp [writeOpmode]
@[simp] theorem writeOpmode_port_owner (s : State) (d : Byte) : (writeOpmode d s).port.owner = s.port.owner := by
  simp [writeOpmode]
@[simp] theorem writeOpmode_port_sent (s : State) (d : Byte) : (writeOpmode d s).port.sent = s.port.sent := by
  simp [writeOpmode]
@[simp] theorem writeOpmode_port_got (s : State) (d : Byte) : (writeOpmode d s).port.got = s.port.got := by
  simp [writeOpmode]
@[simp] theorem writeOpmode_chip_crcOk (s : State) (d : Byte) : (writeOpmode d s).chip.crcOk = s.chip.crcOk := by
  simp [writeOpmode]
@[simp] theorem writeOpmode_chip_rssiRaw (s : State) (d : Byte) : (writeOpmode d s).chip.rssiRaw = s.chip.rssiRaw := by
  simp [writeOpmode]
@[simp] theorem writeOpmode_chip_outputPower (s : State) (d : Byte) : (writeOpmode d s).chip.outputPower = s.chip.outputPower := by
  simp [writeOpmode]
@[simp] theorem writeOpmode_chip_fifo (s : State) (d : Byte) : (writeOpmode d s).chip.fifo = s.chip.fifo := by
  simp [writeOpmode]

/-! Radio steps change only the chip side and the pins (R250 to R254). -/
@[simp] theorem radioStep_cfg (s : State) (ev : RadioEvent) : (radioStep ev s).cfg = s.cfg := by
  unfold radioStep; split
  · cases ev <;> rfl
  · rfl
@[simp] theorem radioStep_latch (s : State) (ev : RadioEvent) : (radioStep ev s).latch = s.latch := by
  unfold radioStep; split
  · cases ev <;> rfl
  · rfl
@[simp] theorem radioStep_port (s : State) (ev : RadioEvent) : (radioStep ev s).port = s.port := by
  unfold radioStep; split
  · cases ev <;> rfl
  · rfl
@[simp] theorem radioStep_caller (s : State) (ev : RadioEvent) : (radioStep ev s).caller = s.caller := by
  unfold radioStep; split
  · cases ev <;> rfl
  · rfl
@[simp] theorem radioStep_env (s : State) (ev : RadioEvent) : (radioStep ev s).env = s.env := by
  unfold radioStep; split
  · cases ev <;> rfl
  · rfl
@[simp] theorem radioStep_chip_regs (s : State) (ev : RadioEvent) : (radioStep ev s).chip.regs = s.chip.regs := by
  unfold radioStep; split
  · cases ev <;> rfl
  · rfl
@[simp] theorem radioStep_chip_outputPower (s : State) (ev : RadioEvent) : (radioStep ev s).chip.outputPower = s.chip.outputPower := by
  unfold radioStep; split
  · cases ev <;> rfl
  · rfl

/-! FORCETO changes only the latch (R194, R195). -/
@[simp] theorem forceTimeout_cfg (s : State) : (forceTimeout s).cfg = s.cfg := by
  unfold forceTimeout; repeat' split
  all_goals rfl
@[simp] theorem forceTimeout_seen (s : State) : (forceTimeout s).seen = s.seen := by
  unfold forceTimeout; repeat' split
  all_goals rfl
@[simp] theorem forceTimeout_chip (s : State) : (forceTimeout s).chip = s.chip := by
  unfold forceTimeout; repeat' split
  all_goals rfl
@[simp] theorem forceTimeout_pins (s : State) : (forceTimeout s).pins = s.pins := by
  unfold forceTimeout; repeat' split
  all_goals rfl
@[simp] theorem forceTimeout_port (s : State) : (forceTimeout s).port = s.port := by
  unfold forceTimeout; repeat' split
  all_goals rfl
@[simp] theorem forceTimeout_caller (s : State) : (forceTimeout s).caller = s.caller := by
  unfold forceTimeout; repeat' split
  all_goals rfl
@[simp] theorem forceTimeout_env (s : State) : (forceTimeout s).env = s.env := by
  unfold forceTimeout; repeat' split
  all_goals rfl

theorem writeOpmode_regs (s : State) (d : Byte) :
    (writeOpmode d s).chip.regs = (s.setReg s.cfg.regOpmode d).chip.regs := by
  simp [writeOpmode]

theorem statusEffect_h {s : State} (h : s.cfg.family = .h) (k : StatusReg) : statusEffect k s = s := by
  simp [statusEffect, h]

theorem statusEffect_s_hw {s : State} (h : s.cfg.family = .s) (k : StatusReg) :
    (statusEffect k s).chip.hw = hwAfterRead k s := by
  simp [statusEffect, h]

/-! ## Transactions -/

/-- With no bracket open and the chip settled the transaction goes through (R107, R310). -/
theorem bracket_ready {α : Type} {s : State} (h : PortReady s) (ag : Agent) (a : Addr) (k : Tx α) :
    bracket ag a s k = k := by
  simp [bracket, h.1, h.2]

/-- In the settle window it faults (R310). -/
theorem bracket_unsettled {α : Type} {s : State} (h1 : s.port.busSelected = false)
    (h2 : s.port.settlePending = true) (ag : Agent) (a : Addr) (k : Tx α) :
    bracket ag a s k = .raised (raise ag (.unsettledAccess a) s) := by
  simp [bracket, h1, h2]

/-- Everything a transaction can do: refused in an open bracket, a fault in the settle window, or done. -/
theorem bracket_cases {α : Type} (ag : Agent) (a : Addr) (s : State) (k : Tx α) :
    (s.port.busSelected = true ∧ bracket ag a s k = .refused .transactionOpen) ∨
    (s.port.busSelected = false ∧ s.port.settlePending = true ∧
      bracket ag a s k = .raised (raise ag (.unsettledAccess a) s)) ∨
    (PortReady s ∧ bracket ag a s k = k) := by
  unfold bracket PortReady
  cases s.port.busSelected <;> cases s.port.settlePending <;> simp

theorem rdreg_ready {s : State} (h : PortReady s) (ag : Agent) (a : Addr) (fill : Byte) :
    rdreg ag a fill s =
      .done (readValue a s) (((readEffect a s).drew 1).sentFrame [addrByte false a, fill] [readValue a s]) :=
  bracket_ready h _ _ _

/-! ## The other agents (R72) -/

/-- The parts of the state that no step of the Isr, the Timer or the Radio writes: the configuration, the stored
registers, the power, the port, the Host's own bookkeeping (R25, R72). -/
structure HostSideKept (s t : State) : Prop where
  cfg : t.cfg = s.cfg
  regs : t.chip.regs = s.chip.regs
  power : t.chip.outputPower = s.chip.outputPower
  port : t.port = s.port
  hostPos : t.caller.hostPos = s.caller.hostPos
  hostStopped : t.caller.hostStopped = s.caller.hostStopped
  initFailed : t.caller.initFailed = s.caller.initFailed
  result : t.caller.result = s.caller.result
  agent : t.env.agent = s.env.agent
  input : t.env.input = s.env.input

theorem HostSideKept.refl (s : State) : HostSideKept s s := ⟨rfl, rfl, rfl, rfl, rfl, rfl, rfl, rfl, rfl, rfl⟩

theorem HostSideKept.trans {s t u : State} (h : HostSideKept s t) (k : HostSideKept t u) : HostSideKept s u :=
  ⟨k.cfg.trans h.cfg, k.regs.trans h.regs, k.power.trans h.power, k.port.trans h.port, k.hostPos.trans h.hostPos,
    k.hostStopped.trans h.hostStopped, k.initFailed.trans h.initFailed, k.result.trans h.result,
    k.agent.trans h.agent, k.input.trans h.input⟩

theorem rdreg_isr_kept (s : State) (a : Addr) (fill : Byte) :
    (∃ v t, rdreg .isr a fill s = .done v t ∧ HostSideKept s t) ∨
    (∃ t, rdreg .isr a fill s = .raised t ∧ HostSideKept s t) ∨
    (∃ r, rdreg .isr a fill s = .refused r) := by
  rcases bracket_cases .isr a s
      (.done (readValue a s) (((readEffect a s).drew 1).sentFrame [addrByte false a, fill] [readValue a s]))
    with ⟨_, h⟩ | ⟨_, _, h⟩ | ⟨_, h⟩
  · exact .inr (.inr ⟨_, h⟩)
  · exact .inr (.inl ⟨_, h, by constructor <;> simp [raise]⟩)
  · exact .inl ⟨_, _, h, by constructor <;> simp⟩

theorem sampleTx_isr_kept (s d : State) (hd : HostSideKept s d) :
    HostSideKept s ((sampleTx .isr s).stateOr d) := by
  unfold sampleTx
  rcases rdreg_isr_kept s s.cfg.regIrq1 0#8 with ⟨v, t, h, k⟩ | ⟨t, h, k⟩ | ⟨r, h⟩
  · rw [h]
    simp only [Tx.andThen]
    have k2 : HostSideKept s { t with latch := t.latch.setShadow .one v } :=
      ⟨k.cfg, k.regs, k.power, k.port, k.hostPos, k.hostStopped, k.initFailed, k.result, k.agent, k.input⟩
    rcases rdreg_isr_kept { t with latch := t.latch.setShadow .one v } t.cfg.regIrq2 0#8
      with ⟨v', t', h', k'⟩ | ⟨t', h', k'⟩ | ⟨r, h'⟩
    · rw [h']
      have k3 := k2.trans k'
      exact ⟨k3.cfg, k3.regs, k3.power, k3.port, k3.hostPos, k3.hostStopped, k3.initFailed, k3.result, k3.agent,
        k3.input⟩
    · rw [h']; exact k2.trans k'
    · rw [h']; exact hd
  · rw [h]; exact k
  · rw [h]; exact hd

theorem latchTx_isr_kept (s d : State) (hd : HostSideKept s d) :
    HostSideKept s ((latchTx .isr s).stateOr d) := by
  unfold latchTx
  rcases rdreg_isr_kept s s.cfg.regIrq1 0#8 with ⟨v, t, h, k⟩ | ⟨t, h, k⟩ | ⟨r, h⟩
  · rw [h]
    simp only [Tx.andThen]
    rcases rdreg_isr_kept t t.cfg.regIrq2 0#8 with ⟨v', t', h', k'⟩ | ⟨t', h', k'⟩ | ⟨r, h'⟩
    · rw [h']
      have k3 := k.trans k'
      exact ⟨k3.cfg, k3.regs, k3.power, k3.port, k3.hostPos, k3.hostStopped, k3.initFailed, k3.result, k3.agent,
        k3.input⟩
    · rw [h']; exact k.trans k'
    · rw [h']; exact hd
  · rw [h]; exact k
  · rw [h]; exact hd

/-- The interrupt service writes nothing of the Host's side (R72). -/
theorem serviceIrq_kept (s : State) : HostSideKept s (serviceIrq s) := by
  unfold serviceIrq
  split
  · have h0 : HostSideKept s (enterIsr s) := by constructor <;> rfl
    have h1 : HostSideKept (enterIsr s) (serviceBody (enterIsr s)) := by
      unfold serviceBody
      split
      · exact sampleTx_isr_kept _ _ (.refl _)
      · exact latchTx_isr_kept _ _ (.refl _)
    have h2 := h0.trans h1
    exact ⟨h2.cfg, h2.regs, h2.power, h2.port, h2.hostPos, h2.hostStopped, h2.initFailed, h2.result, h2.agent,
      h2.input⟩
  · exact .refl _

theorem radioStep_kept (ev : RadioEvent) (s : State) : HostSideKept s (radioStep ev s) := by
  constructor <;> simp

theorem forceTimeout_kept (s : State) : HostSideKept s (forceTimeout s) := by
  constructor <;> simp

theorem envStep_kept (s : State) (e : EnvStep) : HostSideKept s (envStep s e) := by
  cases e with
  | irqsvc =>
    simp only [envStep]
    split
    · exact .refl _
    · exact serviceIrq_kept _
  | forceto => exact forceTimeout_kept _
  | radio ev => exact radioStep_kept _ _

theorem envSteps_kept (g : List EnvStep) (s : State) : HostSideKept s (g.foldl envStep s) := by
  induction g generalizing s with
  | nil => exact .refl _
  | cons e g ih => exact (envStep_kept s e).trans (ih _)

/-- Whatever falls into a gap leaves the Host's side alone: a read-modify-write is safe without a lock (R72). -/
theorem preempt_kept (s : State) : HostSideKept s (preempt s) := by
  unfold preempt
  split
  · exact .refl _
  · rename_i g gs _
    exact HostSideKept.trans (t := { s with env := { s.env with gaps := gs } }) (by constructor <;> rfl)
      (envSteps_kept _ _)

theorem preempt_nil {s : State} (h : s.env.gaps = []) : preempt s = s := by
  simp [preempt, h]

end Sys2Proof.Machine
end

