-- ==== Sys2Proof/Laws/Pins.lean ====
section
/-! SUPPORT. Operations that only clear hardware flags raise no request (R256), and what the deterministic clears of
AUTOCLEAR = datasheet leave (R252). -/

namespace Sys2Proof.Machine

/-- Fewer hardware flags raise no pin. -/
theorem pinFn_mono {s t : State} (hc : t.cfg = s.cfg) (hr : t.chip.regs = s.chip.regs)
    (h : ∀ e, t.chip.hw.get e = true → s.chip.hw.get e = true) :
    (t.pinFn0 = true → s.pinFn0 = true) ∧ (t.pinFn1 = true → s.pinFn1 = true) := by
  have h1 := h .pr
  have h2 := h .ps
  have h3 := h .tmo
  simp only [EventBits.get] at h1 h2 h3
  constructor
  · simp only [State.pinFn0, State.reg, hc, hr]
    repeat' split
    all_goals simp_all
  · simp only [State.pinFn1, State.reg, hc, hr]
    repeat' split
    all_goals simp_all

/-- From `s` to `t` hardware flags have at most been cleared, and the pins recomputed: no request is lost, and none
arises where the recorded levels were current. -/
structure PinsFell (s t : State) : Prop where
  cfg : t.cfg = s.cfg
  regs : t.chip.regs = s.chip.regs
  hw : ∀ e, t.chip.hw.get e = true → s.chip.hw.get e = true
  inIsr : t.pins.inIsr = s.pins.inIsr
  irqPend : PinsCurrent s → PinsCurrent t ∧ t.pins.irqPend = s.pins.irqPend
  kept : s.pins.irqPend = true → t.pins.irqPend = true

theorem PinsFell.refl (s : State) : PinsFell s s := ⟨rfl, rfl, fun _ h => h, rfl, fun h => ⟨h, rfl⟩, id⟩

theorem PinsFell.trans {s t u : State} (h : PinsFell s t) (k : PinsFell t u) : PinsFell s u :=
  ⟨k.cfg.trans h.cfg, k.regs.trans h.regs, fun e x => h.hw e (k.hw e x), k.inIsr.trans h.inIsr,
    fun x => ⟨(k.irqPend (h.irqPend x).1).1, (k.irqPend (h.irqPend x).1).2.trans (h.irqPend x).2⟩,
    fun x => k.kept (h.kept x)⟩

theorem PinsFell.updatePins {s t : State} (hc : t.cfg = s.cfg) (hr : t.chip.regs = s.chip.regs)
    (hh : ∀ e, t.chip.hw.get e = true → s.chip.hw.get e = true) (hp : t.pins = s.pins) : PinsFell s t.updatePins := by
  refine ⟨hc, hr, hh, by simp [hp], fun hcur => ⟨⟨rfl, rfl⟩, ?_⟩, fun h => by simp [State.updatePins, hp, h]⟩
  have m := pinFn_mono hc hr hh
  simp only [State.updatePins, hp, hcur.1, hcur.2]
  revert m
  generalize t.pinFn0 = x
  generalize t.pinFn1 = y
  generalize s.pinFn0 = x'
  generalize s.pinFn1 = y'
  cases x <;> cases y <;> cases x' <;> cases y' <;> simp

theorem PinsFell.clearHw (s : State) (e : Event) : PinsFell s (s.clearHw e) := by
  refine PinsFell.updatePins rfl rfl (fun e' => ?_) rfl
  simp [EventBits.get_set]

theorem PinsFell.modeClears (s : State) (old : Option Mode) : PinsFell s (modeClears old s) := by
  unfold Sys2Proof.Machine.modeClears
  dsimp only
  repeat' split
  all_goals
    first
    | exact .refl _
    | exact .clearHw _ _
    | exact .trans (.clearHw _ _) (.clearHw _ _)
    | exact .trans (.trans (.clearHw _ _) (.clearHw _ _)) (.clearHw _ _)

theorem PinsFell.statusEffect (s : State) (k : StatusReg) : PinsFell s (statusEffect k s) := by
  unfold Sys2Proof.Machine.statusEffect
  split
  · exact .refl _
  · refine .updatePins rfl rfl (fun e => ?_) rfl
    simp only [hwAfterRead_get, Bool.and_eq_true]
    exact And.left

theorem PinsFell.fifoPop (s : State) (n : Nat) : PinsFell s (fifoPop n s) := by
  have h : PinsFell s { s with chip := { s.chip with fifo := s.chip.fifo.drop n } } :=
    ⟨rfl, rfl, fun _ h => h, rfl, fun h => ⟨h, rfl⟩, id⟩
  unfold Sys2Proof.Machine.fifoPop
  dsimp only
  split
  · exact h.trans (.clearHw _ _)
  · exact h

theorem PinsFell.readEffect (s : State) (a : Addr) : PinsFell s (readEffect a s) := by
  unfold Sys2Proof.Machine.readEffect
  repeat' split
  · exact .fifoPop s 1
  · exact .statusEffect s .one
  · exact .statusEffect s .two
  · exact .refl s

theorem modeClears_of_draw {s : State} {o : Option Mode} (h : s.cfg.autoClear = .draw ∨ s.cfg.family = .s) :
    modeClears o s = s := by
  unfold modeClears
  rcases h with h | h <;> simp [h]

/-- The flags that the clears of a mode write leave under AUTOCLEAR = datasheet. -/
theorem modeClears_hw {s : State} {old : Option Mode} {m : Mode} (hd : DatasheetClears s.cfg) (hm : s.mode? = some m) :
    (modeClears old s).chip.hw =
      { pr := s.chip.hw.pr && !(decide (old = some .receive ∧ m ≠ .receive) && s.chip.fifo.isEmpty)
        ps := s.chip.hw.ps && !decide (old = some .transmit ∧ m ≠ .transmit)
        tmo := s.chip.hw.tmo && !decide (old = some .receive ∧ m ≠ .receive) } := by
  have hd' : s.cfg.family = .h ∧ s.cfg.autoClear = .datasheet := hd
  rw [modeClears, if_pos hd', hm]
  cases hf : s.chip.fifo <;> rcases old with _ | old <;> try cases old
  all_goals cases m <;> simp [EventBits.set]

end Sys2Proof.Machine
end

