-- ==== Sys2Proof/Laws/Port.lean ====
section
/-! SUPPORT. What each transaction leaves once it is admitted and the port is ready; how it ends when the chip
settles or a bracket is open. -/

namespace Sys2Proof.Machine

/-! ## Admission (R169, R262) -/

theorem admit_host {s : State} {k : Out State} (h : HostMay s) (who : List Agent) (hw : Agent.host ∈ who) :
    ifAdmitted who s k = k := by
  simp [ifAdmitted, h.1, hw, h.2]

theorem admit_hostOrIsr {s : State} {k : Out State} (h : HostOrIsrMay s) : ifAdmitted [.host, .isr] s k = k := by
  rcases h with h | h
  · exact admit_host h _ (by simp)
  · simp [ifAdmitted, h]

theorem admit_readers {s : State} {a : Addr} {k : Out State} (h : MayRead s a) : ifAdmitted (s.cfg.readers a) s k = k := by
  rcases h with h | ⟨h, h'⟩
  · exact admit_host h _ (by unfold Cfg.readers; split <;> simp)
  · simp [ifAdmitted, Cfg.readers, h, h']

/-- The Isr is turned away from a register that only the Host accesses (R24, R29, R30). -/
theorem rdregOp_hostOnly {s : State} {a : Addr} (ha : s.env.agent = .isr) (h : s.cfg.hostOnly a = true) (d : Byte) :
    rdregOp a d s = .refused .wrongAgent := by
  unfold rdregOp fifordOp
  split <;> simp [ifAdmitted, Cfg.readers, ha, h]

theorem mem_readers {s : State} {a : Addr} (h : MayRead s a) : s.env.agent ∈ s.cfg.readers a := by
  rcases h with h | ⟨h, h'⟩
  · rw [h.1]
    unfold Cfg.readers
    split <;> simp
  · simp [Cfg.readers, h, h']

theorem mayRead_irq {s : State} (hc : s.cfg.wf = true) (h : HostOrIsrMay s) (k : StatusReg) :
    MayRead s (s.cfg.regIrq k) :=
  h.imp id fun h' => ⟨h', irq_not_hostOnly hc k⟩

theorem admit_isr {s : State} {k : Out State} (h : s.env.agent = .isr) : ifAdmitted [.isr] s k = k := by
  simp [ifAdmitted, h]

theorem admit_wrongAgent {s : State} {who : List Agent} {k : Out State} (h : s.env.agent ∉ who) :
    ifAdmitted who s k = .refused .wrongAgent := by
  simp [ifAdmitted, h]

/-! ## The table rows of the register transactions (R101) -/

theorem exec_of_readOf {i : Instr} {a : Addr} {d : Byte} (h : readOf i = some (a, d)) (s : State) :
    exec i s = rdregOp a d s := by
  cases i <;> simp [readOf] at h <;> obtain ⟨rfl, rfl⟩ := h <;> rfl

theorem exec_of_writeOf {i : Instr} {a : Addr} {d : Byte} (h : writeOf i = some (a, d)) (s : State) :
    exec i s = wrregOp a d s := by
  cases i <;> simp [writeOf] at h <;> obtain ⟨rfl, rfl⟩ := h <;> rfl

theorem rdregOp_ready {s : State} {a : Addr} {d : Byte} (h : MayRead s a) (hp : PortReady s)
    (ha : a ≠ s.cfg.regFifo) :
    rdregOp a d s =
      .next
        ((((readEffect a s).drew 1).sentFrame [addrByte false a, d] [readValue a s]).answer
          (.byte (readValue a s))) := by
  simp [rdregOp, ha, admit_readers h, rdreg_ready hp, Tx.outWith]

theorem wrregOp_ready {s : State} {a : Addr} {d : Byte} (h : HostMay s) (hp : PortReady s) (ha : a ≠ s.cfg.regFifo) :
    wrregOp a d s =
      match writeEffect a d s with
      | .ok s1 => .next (s1.sentFrame [addrByte true a, d] [])
      | .error r => .refused r := by
  simp only [wrregOp, ha, if_false, admit_host h [.host] (by simp), wrreg, bracket_ready hp]
  cases writeEffect a d s <;> rfl

/-! ## In an open bracket (R107) and in the settle window (R310) -/

theorem bracket_open {α : Type} {s : State} (h : s.port.busSelected = true) (ag : Agent) (a : Addr) (k : Tx α) :
    bracket ag a s k = .refused .transactionOpen := by
  simp [bracket, h]

theorem rdreg_unsettled {s : State} (h1 : s.port.busSelected = false) (h2 : s.port.settlePending = true) (ag : Agent)
    (a : Addr) (f : Byte) : rdreg ag a f s = .raised (raise ag (.unsettledAccess a) s) :=
  bracket_unsettled h1 h2 _ _ _

theorem wrreg_unsettled {s : State} (h1 : s.port.busSelected = false) (h2 : s.port.settlePending = true) (ag : Agent)
    (a : Addr) (d : Byte) : wrreg ag a d s = .raised (raise ag (.unsettledAccess a) s) :=
  bracket_unsettled h1 h2 _ _ _

theorem fifowr_unsettled {s : State} (h1 : s.port.busSelected = false) (h2 : s.port.settlePending = true)
    (ag : Agent) (bs : List Byte) : fifowr ag bs s = .raised (raise ag (.unsettledAccess s.cfg.regFifo) s) :=
  bracket_unsettled h1 h2 _ _ _

theorem fiford_unsettled {s : State} (h1 : s.port.busSelected = false) (h2 : s.port.settlePending = true)
    (ag : Agent) (bs : List Byte) : fiford ag bs s = .raised (raise ag (.unsettledAccess s.cfg.regFifo) s) :=
  bracket_unsettled h1 h2 _ _ _

theorem writePower_unsettled {s : State} (h1 : s.port.busSelected = false) (h2 : s.port.settlePending = true)
    (ag : Agent) (x : Int) : writePower ag x s = .raised (raise ag (.unsettledAccess s.cfg.regPower) s) :=
  bracket_unsettled h1 h2 _ _ _

/-! ## The fault record (R10, log 25) -/

theorem Fault.key_inj {f g : Fault} (h : f.key = g.key) : f = g := by
  cases f <;> cases g <;> simp [Fault.key] at h
  · rename_i a b
    rw [BitVec.toNat_inj] at h
    rw [h]
  · rename_i a
    have := a.isLt
    omega
  · rename_i a
    have := a.isLt
    omega
  · rfl

theorem mem_insertFault (f : Fault) (l : List Fault) : f ∈ insertFault f l := by
  induction l with
  | nil => simp [insertFault]
  | cons g l ih =>
    simp only [insertFault]
    split
    · simp
    · split
      · rename_i h
        rw [Fault.key_inj h]
        simp
      · simp [ih]

theorem subset_insertFault (f : Fault) (l : List Fault) : ∀ g ∈ l, g ∈ insertFault f l := by
  induction l with
  | nil => simp
  | cons g l ih =>
    simp only [insertFault]
    intro x hx
    split
    · simp_all
    · split
      · exact hx
      · simp at hx ⊢
        exact hx.imp_right (ih x)

/-! ## Writes -/

theorem writeEffect_opmode {s : State} (hc : s.cfg.wf = true) (d : Byte) :
    writeEffect s.cfg.regOpmode d s =
      if (s.cfg.modeOf d).isNone then .error .reservedModePattern else .ok (writeOpmode d s) := by
  have := opmode_ne hc
  simp [writeEffect, this]

theorem writeEffect_pinmap {s : State} (hc : s.cfg.wf = true) {a : Addr}
    (ha : a = s.cfg.regPinmapA ∨ a = s.cfg.regPinmapB) (d : Byte) :
    writeEffect a d s = .ok (s.setReg a d).updatePins := by
  have := pinmap_ne hc ha
  simp [writeEffect, this, ha]

theorem writeEffect_rxto {s : State} (hc : s.cfg.wf = true) (hf : s.cfg.family = .h) {a : Addr}
    (ha : a = s.cfg.regRxto1 ∨ a = s.cfg.regRxto2) (d : Byte) : writeEffect a d s = .ok (s.setReg a d) := by
  have := rxto_ne hc hf ha
  simp [writeEffect, this, ha, hf]

theorem wrreg_rxto {s : State} (hc : s.cfg.wf = true) (hf : s.cfg.family = .h) (hp : PortReady s) {a : Addr}
    (ha : a = s.cfg.regRxto1 ∨ a = s.cfg.regRxto2) (ag : Agent) (d : Byte) :
    wrreg ag a d s = .done () ((s.setReg a d).sentFrame [addrByte true a, d] []) := by
  rw [wrreg, bracket_ready hp, writeEffect_rxto hc hf ha]

theorem writeOpmode_reg (s : State) (d : Byte) (a : Addr) :
    (writeOpmode d s).reg a = (s.setReg s.cfg.regOpmode d).reg a :=
  State.reg_congr (writeOpmode_regs s d) a

theorem writeOpmode_mode {s : State} (hm : Memory.wf s.chip.regs = true) (d : Byte) :
    (writeOpmode d s).mode? = s.cfg.modeOf d := by
  rw [State.mode?_congr (s := s.setReg s.cfg.regOpmode d) (by simp) (writeOpmode_regs s d)]
  simp [State.mode?, State.reg_setReg_same hm]

/-- A write of the mode register, from after its store to its end: flags at most fall. -/
theorem PinsFell.writeOpmode (s : State) (d : Byte) :
    PinsFell (settleAfter s.mode? (s.setReg s.cfg.regOpmode d)) (writeOpmode d s) :=
  (PinsFell.modeClears _ s.mode?).trans (.updatePins rfl rfl (fun _ h => h) rfl)

theorem setReg_opmode_pinFn {s : State} (hc : s.cfg.wf = true) (d : Byte) :
    (s.setReg s.cfg.regOpmode d).pinFn0 = s.pinFn0 ∧ (s.setReg s.cfg.regOpmode d).pinFn1 = s.pinFn1 := by
  have hA := State.reg_setReg_other s d (pinmap_ne hc (.inl rfl)).2.1
  have hB := State.reg_setReg_other s d (pinmap_ne hc (.inr rfl)).2.1
  constructor
  · simp only [State.pinFn0, State.setReg_cfg, hA, State.setReg_hw]
  · simp only [State.pinFn1, State.setReg_cfg, hB, State.setReg_hw]

theorem writeOpmode_port {s : State} (hm : Memory.wf s.chip.regs = true) (hp : PortReady s) {d : Byte} {m : Mode}
    (hd : s.cfg.modeOf d = some m) :
    (writeOpmode d s).port = { s.port with settlePending := decide (s.mode? = some .sleep ∧ m ≠ .sleep) } := by
  have h2 := hp.2
  have hmode : (s.setReg s.cfg.regOpmode d).mode? = some m := by
    simp [State.mode?, State.reg_setReg_same hm, hd]
  simp [writeOpmode, settleAfter, hmode]
  split
  · rename_i h
    simp [h]
  · rename_i h
    cases hq : s.port
    simp_all

/-! ## Reads -/

theorem readValue_irq {s : State} (h : s.cfg.wf = true) (hp : s.cfg.present = true) (k : StatusReg) :
    readValue (s.cfg.regIrq k) s = statusView k s.free8 s := by
  have := irq_ne h
  cases k <;> simp [Cfg.regIrq, readValue, this, hp]

/-- An absent chip answers any byte but at the identification register (R148). -/
theorem readValue_absent {s : State} (hp : s.cfg.present = false) {a : Addr} (ha : a ≠ s.cfg.regVersion) :
    readValue a s = s.free8 := by
  simp [readValue, hp, ha]

theorem readValue_version {s : State} (hc : s.cfg.wf = true) : readValue s.cfg.regVersion s = s.cfg.versionValue := by
  simp [readValue, version_ne hc]

theorem readValue_rssi {s : State} (hc : s.cfg.wf = true) (hp : s.cfg.present = true) :
    readValue s.cfg.regRssi s = s.chip.rssiRaw := by
  simp [readValue, rssi_ne hc, hp]

theorem readEffect_irq {s : State} (h : s.cfg.wf = true) (k : StatusReg) :
    readEffect (s.cfg.regIrq k) s = statusEffect k s := by
  have := irq_ne h
  cases k <;> simp [Cfg.regIrq, readEffect, this]

theorem readEffect_opmode {s : State} (hc : s.cfg.wf = true) : readEffect s.cfg.regOpmode s = s := by
  simp [readEffect, opmode_ne hc]

theorem readValue_opmode {s : State} (hc : s.cfg.wf = true) (hp : s.cfg.present = true) :
    readValue s.cfg.regOpmode s = s.reg s.cfg.regOpmode := by
  simp [readValue, opmode_ne hc, hp]

theorem readValue_pinmap {s : State} (hc : s.cfg.wf = true) (hp : s.cfg.present = true) {a : Addr}
    (ha : a = s.cfg.regPinmapA ∨ a = s.cfg.regPinmapB) : readValue a s = s.reg a := by
  simp [readValue, pinmap_ne hc ha, ha, hp]

theorem fifoPop_chip (s : State) (n : Nat) :
    (fifoPop n s).chip =
      { s.chip with
        fifo := s.chip.fifo.drop n
        hw :=
          if s.cfg.family = .h ∧ s.cfg.autoClear = .datasheet ∧ s.chip.fifo ≠ [] ∧ s.chip.fifo.drop n = [] then
            s.chip.hw.set .pr false
          else s.chip.hw } := by
  simp only [fifoPop]
  split <;> simp

theorem fifordOp_ready {s : State} (h : HostMay s) (hp : PortReady s) (fill : List Byte) :
    fifordOp fill s =
      .next
        { ((fifoPop fill.length s).drew fill.length).sentFrame (addrByte false s.cfg.regFifo :: fill)
            (fifoSlots fill.length s) with
          caller := { s.caller with result := .bytes (fifoSlots fill.length s) } } := by
  simp only [fifordOp, admit_host h [.host] (by simp), fiford, bracket_ready hp, Tx.outWith]
  rw [State.answer_host (by simp [h.1])]
  simp

/-! ## Read-modify-write (R72, R140, R176) -/

theorem HostSideKept.ready {s t : State} (k : HostSideKept s t) (h : PortReady s) : PortReady t := by
  simpa [PortReady, k.port] using h

theorem atGap_kept (a : Addr) (s : State) : HostSideKept s (atGap a s) := by
  unfold atGap
  exact HostSideKept.trans (t := (s.drew 1).sentFrame [addrByte false a, 0#8] [readValue a s]) (by constructor <;> rfl)
    (preempt_kept _)

theorem atGap_reg (a b : Addr) (s : State) : (atGap a s).reg b = s.reg b :=
  State.reg_congr (atGap_kept a s).regs b

theorem rmw_ready {s : State} (hp : PortReady s) (ag : Agent) (a : Addr) (f : Byte → Byte) (he : readEffect a s = s) :
    rmw ag a f s = wrreg ag a (f (readValue a s)) (atGap a s) := by
  simp [rmw, rdreg_ready hp, Tx.andThen, he, atGap]

theorem exec_setmode {s : State} (m : Mode) (hc : s.cfg.wf = true) (h : HostMay s) (hp : PortReady s) :
    exec (setmodeInstr m) s =
      .next
        ((writeOpmode (putField (readValue s.cfg.regOpmode s) s.cfg.modeMask (s.cfg.modeBits m))
            (atGap s.cfg.regOpmode s)).sentFrame
          [addrByte true s.cfg.regOpmode, putField (readValue s.cfg.regOpmode s) s.cfg.modeMask (s.cfg.modeBits m)] []) := by
  have e : exec (setmodeInstr m) s = setmodeOp m s := by cases m <;> rfl
  rw [e, setmodeOp, admit_host h [.host] (by simp), rmw_ready hp _ _ _ (readEffect_opmode hc)]
  have k := atGap_kept s.cfg.regOpmode s
  generalize atGap s.cfg.regOpmode s = g at *
  have hw := writeEffect_opmode (s := g) (by rw [k.cfg]; exact hc)
    (putField (readValue s.cfg.regOpmode s) s.cfg.modeMask (s.cfg.modeBits m))
  rw [k.cfg, modeOf_putField hc] at hw
  rw [wrreg, bracket_ready (k.ready hp), hw]
  rfl

theorem mapTx_ready {s : State} (hc : s.cfg.wf = true) (hp : PortReady s) {a : Addr}
    (ha : a = s.cfg.regPinmapA ∨ a = s.cfg.regPinmapB) (ag : Agent) (m x : Byte) :
    mapTx ag a m x s =
      .done ()
        (((atGap a s).setReg a (putField (readValue a s) m x)).updatePins.sentFrame
          [addrByte true a, putField (readValue a s) m x] []) := by
  have hf := pinmap_ne hc ha
  have k := atGap_kept a s
  rw [mapTx, rmw_ready hp _ _ _ (by simp [readEffect, hf]), wrreg,
    bracket_ready (k.ready hp), writeEffect_pinmap (by rw [k.cfg]; exact hc) (by rw [k.cfg]; exact ha)]

theorem mapField_addr (c : Cfg) (e : Event) :
    (mapField c e).1 = c.regPinmapA ∨ (mapField c e).1 = c.regPinmapB := by
  cases e <;> simp [mapField]

theorem mapField_sel {c : Cfg} (h : c.wf = true) (e : Event) :
    (mapField c e).2.2 &&& (mapField c e).2.1 = (mapField c e).2.2 := by
  have f := cfgFacts h
  cases e <;> simp [mapField, f.psIn, f.prIn, f.toIn]

theorem exec_map {s : State} (h : HostMay s) (e : Event) :
    exec (mapInstr e) s =
      (mapTx .host (mapField s.cfg e).1 (mapField s.cfg e).2.1 (mapField s.cfg e).2.2 s).out := by
  cases e <;>
    simp only [exec, mapInstr, execMappr, execMapps, execMapto, maptoTx, mapField, admit_host h [.host] (by simp), h.1]

theorem drawnPower_range {c : Cfg} (h : c.pMin ≤ c.pMax) (n : Nat) :
    c.pMin ≤ drawnPower c n ∧ drawnPower c n ≤ c.pMax := by
  unfold drawnPower
  have := Nat.mod_lt (Config.freeNat n) (show (c.pMax - c.pMin).toNat + 1 > 0 by omega)
  omega

end Sys2Proof.Machine
end

