-- ==== Sys2Proof/Laws/Latch.lean ====
section
/-! SUPPORT. What SAMPLE and LATCH leave once the port is ready (R161, R163), and the flag view after a clear. -/

namespace Sys2Proof.Machine

theorem rdreg_irq_h {s : State} (hc : s.cfg.wf = true) (hf : s.cfg.family = .h) (hp : PortReady s) (ag : Agent)
    (k : StatusReg) (d : Byte) :
    rdreg ag (s.cfg.regIrq k) d s =
      .done (readValue (s.cfg.regIrq k) s)
        ((s.drew 1).sentFrame [addrByte false (s.cfg.regIrq k), d] [readValue (s.cfg.regIrq k) s]) := by
  rw [rdreg_ready hp, readEffect_irq hc, statusEffect_h hf]

/-- SAMPLE under family H: what both status reads return is stored, the status views of a present chip; nothing else but
the bus record and the draw counter changes. -/
theorem sampleTx_ready {s : State} (hc : s.cfg.wf = true) (hf : s.cfg.family = .h) (hp : PortReady s) (ag : Agent) :
    ∃ b1 b2 : Byte,
      sampleTx ag s =
        .done ()
          { s with
            latch := { s.latch with shadow1 := b1, shadow2 := b2 }
            env :=
              (((s.drew 2).sentFrame [addrByte false s.cfg.regIrq1, 0#8] [b1]).sentFrame
                [addrByte false s.cfg.regIrq2, 0#8] [b2]).env } ∧
        (s.cfg.present = true → (∃ d, b1 = statusView .one d s) ∧ ∃ d, b2 = statusView .two d s) := by
  generalize hv : readValue s.cfg.regIrq1 s = b1
  let s2 : State :=
    { (s.drew 1).sentFrame [addrByte false s.cfg.regIrq1, 0#8] [b1] with latch := s.latch.setShadow .one b1 }
  refine ⟨b1, readValue s2.cfg.regIrq2 s2, ?_, fun hh => ⟨⟨_, hv ▸ readValue_irq hc hh .one⟩,
    ⟨_, readValue_irq (s := s2) hc hh .two⟩⟩⟩
  have k1 := rdreg_irq_h hc hf hp ag .one 0#8
  have k2 := rdreg_irq_h (s := s2) hc hf hp ag .two 0#8
  simp only [Cfg.regIrq, hv] at k1 k2
  rw [sampleTx, k1]
  show Tx.andThen (rdreg ag s2.cfg.regIrq2 0#8 s2) _ = _
  rw [k2]
  rfl

theorem flagView_of_shadows {s t : State} (hc : s.cfg.wf = true) (hf : s.cfg.family = .h) (ht : t.cfg = s.cfg)
    {d1 d2 : Byte} (h1 : t.latch.shadow1 = statusView .one d1 s) (h2 : t.latch.shadow2 = statusView .two d2 s)
    (e : Event) : flagView t e = s.chip.hw.get e := by
  simp only [flagView, ht, hf]
  cases hk : (s.cfg.loc e).reg
  · simp only [LatchState.shadow, h1]
    exact statusView_event hc _ _ _ hk
  · simp only [LatchState.shadow, h2]
    exact statusView_event hc _ _ _ hk

theorem flagView_clearShadows {s : State} (hf : s.cfg.family = .h) (e : Event) :
    flagView (clearShadows s) e = false := by
  simp only [flagView, clearShadows_cfg, hf]
  cases (s.cfg.loc e).reg <;> simp [clearShadows, LatchState.shadow, bitOf]

theorem orEvents_get {s t : State} (hc : s.cfg.wf = true) (ht : t.cfg = s.cfg) (hh : t.chip.hw = hwAfterRead .one s)
    (d1 d2 : Byte) (x : EventBits) (e : Event) :
    (orEvents s.cfg (statusView .one d1 s) (statusView .two d2 t) x).get e = (x.get e || s.chip.hw.get e) := by
  have v1 := fun e => statusView_event hc d1 .one e
  have v2 := fun e => statusView_event (s := t) (by rw [ht]; exact hc) d2 .two e
  rw [ht] at v2
  have g := fun e => hwAfterRead_get .one s e
  cases e
  all_goals
    simp only [orEvents, EventBits.get]
    congr 1
  · have v1 := v1 .pr
    have v2 := v2 .pr
    have g := g .pr
    simp only [Cfg.loc, EventBits.get] at v1 v2 g
    cases hk : s.cfg.locPr.reg
    · simp only [v1 hk]
    · simp only [v2 hk, hh, g, hk]
      simp
  · have v1 := v1 .ps
    have v2 := v2 .ps
    have g := g .ps
    simp only [Cfg.loc, EventBits.get] at v1 v2 g
    cases hk : s.cfg.locPs.reg
    · simp only [v1 hk]
    · simp only [v2 hk, hh, g, hk]
      simp
  · have v1 := v1 .tmo
    have v2 := v2 .tmo
    have g := g .tmo
    simp only [Cfg.loc, EventBits.get] at v1 v2 g
    cases hk : s.cfg.locTo.reg
    · simp only [v1 hk]
    · simp only [v2 hk, hh, g, hk]
      simp

/-- After both status reads of family S no hardware flag is left. -/
theorem hwAfterRead_both {s t : State} (hc : t.cfg = s.cfg) (h : t.chip.hw = hwAfterRead .one s) :
    hwAfterRead .two t = ⟨false, false, false⟩ := by
  have : ∀ r : StatusReg, (decide (r ≠ .one) && decide (r ≠ .two)) = false := by
    intro r
    cases r <;> rfl
  unfold hwAfterRead at *
  simp only [hc, h, Bool.and_assoc, this, Bool.and_false]

theorem statusEffect_s {s : State} (h : s.cfg.family = .s) (k : StatusReg) :
    statusEffect k s = ({ s with chip := { s.chip with hw := hwAfterRead k s } } : State).updatePins := by
  simp [statusEffect, h]

/-- LATCH under family S: the flags are cleared, both pins are low, no request is lost and none arises where the
recorded levels were current; every hardware flag of a present chip is or-ed into its boolean. -/
theorem latchTx_ready {s : State} (hc : s.cfg.wf = true) (hf : s.cfg.family = .s) (hp : PortReady s) (ag : Agent) :
    ∃ t : State,
      latchTx ag s = .done () t ∧
        (s.cfg.present = true → ∀ e, t.latch.bits.get e = (s.latch.bits.get e || s.chip.hw.get e)) ∧
        t.latch.shadow1 = s.latch.shadow1 ∧ t.latch.shadow2 = s.latch.shadow2 ∧
        t.chip = { s.chip with hw := ⟨false, false, false⟩ } ∧ t.pins.level0 = false ∧ t.pins.level1 = false ∧
        t.pins.inIsr = s.pins.inIsr ∧
        (PinsCurrent s → t.pins.irqPend = s.pins.irqPend) ∧ (s.pins.irqPend = true → t.pins.irqPend = true) ∧
        t.cfg = s.cfg ∧ t.port = s.port ∧ t.caller = s.caller := by
  unfold latchTx
  have r1 := readEffect_irq hc .one
  have v1 := readValue_irq (s := s) hc (k := .one)
  simp only [Cfg.regIrq] at r1 v1
  rw [rdreg_ready hp, r1, statusEffect_s hf]
  simp only [Tx.andThen]
  generalize readValue s.cfg.regIrq1 s = b1 at v1 ⊢
  generalize hs1 :
    (({ s with chip := { s.chip with hw := hwAfterRead .one s } } : State).updatePins.drew 1).sentFrame
      [addrByte false s.cfg.regIrq1, 0#8] [b1] = s1
  have c1 : s1.cfg = s.cfg := by rw [← hs1]; rfl
  have p1 : s1.port = s.port := by rw [← hs1]; rfl
  have h1 : s1.chip = { s.chip with hw := hwAfterRead .one s } := by rw [← hs1]; rfl
  have l1 : s1.latch = s.latch := by rw [← hs1]; rfl
  have k1 : s1.caller = s.caller := by rw [← hs1]; rfl
  have n1 : PinsFell s s1 := by
    rw [← hs1]
    have f := PinsFell.statusEffect s .one
    rw [statusEffect_s hf] at f
    exact ⟨f.cfg, f.regs, f.hw, f.inIsr, f.irqPend, f.kept⟩
  clear hs1
  have hc1 : s1.cfg.wf = true := by rw [c1]; exact hc
  have hf1 : s1.cfg.family = .s := by rw [c1]; exact hf
  have z := hwAfterRead_both (s := s) (t := s1) c1 (by rw [h1])
  have r2 := readEffect_irq hc1 .two
  have v2 := readValue_irq (s := s1) hc1 (k := .two)
  simp only [Cfg.regIrq] at r2 v2
  rw [rdreg_ready (by simpa [PortReady, p1] using hp), r2, statusEffect_s hf1]
  have n2 : PinsFell s ({ s1 with chip := { s1.chip with hw := hwAfterRead .two s1 } } : State).updatePins := by
    have f := PinsFell.statusEffect s1 .two
    rw [statusEffect_s hf1] at f
    exact n1.trans f
  refine ⟨_, rfl, ?_, ?_, ?_, ?_, ?_, ?_, ?_, ?_, ?_, ?_, ?_, ?_⟩
  · intro hh e
    have := orEvents_get hc c1 (by rw [h1]) s.free8 s1.free8 s1.latch.bits e
    rw [← v1 hh, ← v2 (by rw [c1]; exact hh), l1] at this
    simp only [State.sentFrame, State.drew, State.updatePins, c1, l1] at this ⊢
    exact this
  · simp [l1]
  · simp [l1]
  · simp [h1]
    exact z
  · exact (pinFn_of_clear z).1
  · exact (pinFn_of_clear z).2
  · exact n2.inIsr
  · exact fun q => (n2.irqPend q).2
  · exact n2.kept
  · simp [c1]
  · simp [p1]
  · simp [k1]

end Sys2Proof.Machine
end

