-- ==== Sys2Proof/Laws/Run.lean ====
section
/-! SUPPORT. Runs of `core`, and one Host turn of a Host that holds the machine alone. -/

namespace Sys2Proof.Machine

theorem run_succ_of_next (M : Host.Core) (n : Nat) (s t : M.State) (h : M.step s = .next t) :
    M.run (n + 1) s = M.run n t := by
  have e :
      M.run (n + 1) s =
        match M.step s with
        | .next s' => M.run n s'
        | .fault r => .fault r
        | .refused r => .refused r := rfl
  rw [e, h]

/-- The first step of a run of this machine. -/
theorem run_step {n : Nat} {s t : State} (h : step s = .next t) :
    Host.Core.run core (n + 1) s = Host.Core.run core n t :=
  run_succ_of_next core n s t h

/-- A Host alone at the frames `f :: fs` executes the statement of `f`. -/
theorem step_of_hostAlone {s : State} {f : Frame} {fs : List Frame} (h : HostAlone s (f :: fs)) :
    step s = stmt f { s with env := { s.env with agent := .host, gaps := [] } } := by
  have hr := h.running
  simp [step, turn, h.input, hostTurn, hr, h.position]

theorem goto_cons {s : State} {f : Frame} {fs : List Frame} (h : s.caller.hostPos = f :: fs) (k : Nat) :
    goto k s = { s with caller := { s.caller with hostPos := { f with idx := k } :: fs } } := by
  simp [goto, setTop, h]

theorem bindTop_cons {s : State} {f : Frame} {fs : List Frame} (h : s.caller.hostPos = f :: fs)
    (g : Locals → Locals) :
    bindTop g s = { s with caller := { s.caller with hostPos := { f with locals := g f.locals } :: fs } } := by
  simp [bindTop, setTop, h]

theorem rdfOp_host {s : State} (h : HostMay s) (e : Event) :
    rdfOp e s = .next { s with caller := { s.caller with result := .flag (flagView s e) } } := by
  rw [rdfOp, admit_host h [.host] (by simp), State.answer_host h.1]

end Sys2Proof.Machine
end

