-- ==== Sys2Proof/Tests/Slice0.lean ====
section
/-! SUPPORT. The model's own tests: ill-formed terms refused, encodings written out bit by bit from R91 to R93 and
R100, the vectors of 95_test_vectors.md one step each, and a witness for the hypotheses of every statement. -/

open Sys2Proof Sys2Proof.Machine

namespace Sys2Proof.Tests

/-! ## Small states -/

/-- Settled, right after reset, under `c`, the operation in hand issued by `ag`. -/
def ready (c : Cfg) (ag : Agent) : State :=
  { State.reset with
    cfg := c
    port := { State.reset.port with settlePending := false }
    env := { State.reset.env with agent := ag } }

/-- Under `cfgH0`, in the Host's hands. -/
def hostH : State := ready cfgH0 .host

/-- Under `CfgS0`, in the Host's hands. -/
def hostS : State := ready cfgS0 .host

/-- Under `cfgH0`, in the Isr's hands, a request pending. -/
def isrH : State := { ready cfgH0 .isr with pins := ⟨false, false, true, false⟩ }

/-- Under `CfgS0`, in the Isr's hands, a request pending. -/
def isrS : State := { ready cfgS0 .isr with pins := ⟨false, false, true, false⟩ }

def withReg (a : Addr) (v : Byte) (s : State) : State := s.setReg a v
def withHw (pr ps tmo : Bool) (s : State) : State := { s with chip := { s.chip with hw := ⟨pr, ps, tmo⟩ } }
def withFifo (bs : List Byte) (s : State) : State := { s with chip := { s.chip with fifo := bs } }
def withShadows (a b : Byte) (s : State) : State :=
  { s with latch := { s.latch with shadow1 := a, shadow2 := b } }
def withBits (pr ps tmo : Bool) (s : State) : State := { s with latch := { s.latch with bits := ⟨pr, ps, tmo⟩ } }
def withPins (l0 l1 pend : Bool) (s : State) : State := { s with pins := ⟨l0, l1, pend, false⟩ }
def settling (s : State) : State := { s with port := { s.port with settlePending := true } }
/-- An open bracket with the bytes already sent. -/
def opened (sent : List Byte) (s : State) : State :=
  { s with port := { s.port with busSelected := true, owner := s.env.agent, sent := sent, got := sent } }
/-- A request is pending: nothing else of the pins changes. -/
def pending (s : State) : State := { s with pins := { s.pins with irqPend := true } }
/-- With AUTOCLEAR = datasheet in force. -/
def datasheet (s : State) : State := { s with cfg := { s.cfg with autoClear := .datasheet } }
/-- `cfgH0` with no chip there (R148). -/
def cfgAbsent : Cfg := { cfgH0 with versionValue := 0x00#8 }
def withInput (l : List Input) (s : State) : State := { s with env := { s.env with input := l } }
def withPos (fs : List Frame) (s : State) : State := { s with caller := { s.caller with hostPos := fs } }

/-- The state of a next outcome. -/
def after (o : Out State) : Option State :=
  match o with
  | .next s => some s
  | .fault _ => none
  | .refused _ => none

/-- The reason of a refusal. -/
def refusal (o : Out State) : Option Refusal :=
  match o with
  | .next _ => none
  | .fault _ => none
  | .refused r => some r

/-- The brackets put on the register port. -/
def frames (o : Out State) : Option (List (List Byte × List Byte)) :=
  (after o).map fun s => s.env.bus.map fun f => (f.sent, f.got)

/-! ## Well-formedness refuses each ill-formed term -/

theorem test_wf_accepts : cfgH0.wf = true ∧ cfgS0.wf = true ∧ { cfgH0 with regPinmapB := 0x25#7, pin1Mask := 0x30#8 }.wf = true := by
  decide

theorem test_wf_addresses :
    { cfgH0 with regOpmode := 0x00#7 }.wf = false ∧ { cfgH0 with regPinmapA := 0x27#7 }.wf = false ∧
      { cfgH0 with regPinmapB := 0x2A#7 }.wf = false ∧ { cfgH0 with regRxto2 := 0x2A#7 }.wf = false ∧
      { cfgS0 with regRxto2 := 0x2A#7 }.wf = false ∧ { cfgH0 with regPinmapB := 0x25#7 }.wf = false := by
  decide

theorem test_wf_modes :
    { cfgH0 with modeMask := 0x00#8 }.wf = false ∧
      { cfgH0 with modePatterns := ⟨0x01#8, 0x04#8, 0x08#8, 0x0C#8, 0x10#8⟩ }.wf = false ∧
      { cfgH0 with modePatterns := ⟨0x00#8, 0x04#8, 0x04#8, 0x0C#8, 0x10#8⟩ }.wf = false := by
  decide

theorem test_wf_pins :
    { cfgH0 with pin0Mask := 0x00#8 }.wf = false ∧ { cfgH0 with pin1Mask := 0x00#8 }.wf = false ∧
      { cfgH0 with pin0SelPs := 0x01#8 }.wf = false ∧ { cfgH0 with pin0SelPr := 0x41#8 }.wf = false ∧
      { cfgH0 with pin0SelPr := 0x00#8 }.wf = false ∧ { cfgH0 with pin1SelTo := 0x20#8 }.wf = false := by
  decide

theorem test_wf_flags_and_values :
    { cfgH0 with locPr := ⟨.two, 3⟩ }.wf = false ∧ { cfgH0 with toOn1 := 0x00#8 }.wf = false ∧
      { cfgH0 with toOn2 := 0x00#8 }.wf = false ∧ { cfgH0 with pMin := 14 }.wf = false ∧
      { cfgH0 with pFallback := -19 }.wf = false ∧ { cfgH0 with pFallback := 14 }.wf = false ∧
      { cfgH0 with maxPayload := 64 }.wf = false ∧ { cfgH0 with rssiInvalid := 0x00#8 }.wf = false ∧
      { cfgH0 with versionInvalid := 0x01#8 }.wf = false ∧ { cfgH0 with writeFlag := 0x40#8 }.wf = false := by
  decide

theorem test_wf_generic_access :
    (Instr.rdreg 0x33#7 0x00#8).wf cfgH0 = true ∧ (Instr.rdreg 0x00#7 0x00#8).wf cfgH0 = false ∧
      (Instr.wrreg 0x00#7 0x00#8).wf cfgH0 = false ∧ (Instr.rdreg 0x2A#7 0x00#8).wf cfgH0 = false ∧
      (Instr.wrreg 0x01#7 0x00#8).wf cfgH0 = false ∧ (Instr.fifowr []).wf cfgH0 = false ∧
      (Instr.fiford []).wf cfgH0 = false := by
  decide

/-- A row of a numbered register is ill-formed where that number is `REG_FIFO`. -/
theorem test_wf_rows_at_fifo :
    ∀ p ∈ [(0x01#7, Instr.rdregOpmode 0#8, Instr.wrregOpmode 0#8), (0x10#7, .rdregVersion 0#8, .wrregVersion 0#8),
        (0x11#7, .rdregPower 0#8, .wrregPower 0#8), (0x24#7, .rdregRssi 0#8, .wrregRssi 0#8),
        (0x25#7, .rdregPinmapA 0#8, .wrregPinmapA 0#8), (0x26#7, .rdregPinmapB 0#8, .wrregPinmapB 0#8),
        (0x27#7, .rdregIrq1 0#8, .wrregIrq1 0#8), (0x28#7, .rdregIrq2 0#8, .wrregIrq2 0#8),
        (0x2A#7, .rdregRxto1 0#8, .wrregRxto1 0#8), (0x2B#7, .rdregRxto2 0#8, .wrregRxto2 0#8)],
      p.2.1.wf { cfgH0 with regFifo := p.1 } = false ∧ p.2.2.wf { cfgH0 with regFifo := p.1 } = false ∧
        p.2.1.wf cfgH0 = true ∧ p.2.2.wf cfgH0 = true := by
  decide

/-! ## Decoding: the words written out from the formats (R91 to R94, R100, R101) -/

/-- A command word, opcode byte then operand byte. -/
def cmd (o p : Byte) : Option Instr := decoded? cfgH0 .command [o, p]

/-- A bus frame. -/
def bus (bytes : List Byte) : Option Instr := decoded? cfgH0 .bus bytes

theorem test_decode_port_commands :
    cmd 0b00000001#8 0b00000000#8 = some .sel ∧ cmd 0b00000010#8 0b00000000#8 = some .desel ∧
      cmd 0b00000011#8 0b10000001#8 = some (.xfer 0x81#8) ∧ cmd 0b00000100#8 0b00000000#8 = some .delay ∧
      cmd 0b00000101#8 0b00000000#8 = some .pwron := by
  decide

theorem test_decode_modes :
    cmd 0b00010000#8 0b00000000#8 = some .setmodeSleep ∧ cmd 0b00010000#8 0b00000001#8 = some .setmodeStandby ∧
      cmd 0b00010000#8 0b00000010#8 = some .setmodeFrequencySynth ∧
      cmd 0b00010000#8 0b00000011#8 = some .setmodeTransmit ∧ cmd 0b00010000#8 0b00000100#8 = some .setmodeReceive := by
  decide

theorem test_decode_latch :
    cmd 0b00100000#8 0b00000000#8 = some .irqsvc ∧ cmd 0b00100001#8 0b00000000#8 = some .sample ∧
      cmd 0b00100010#8 0b00000000#8 = some .clear ∧ cmd 0b00100011#8 0b00000000#8 = some .latch ∧
      cmd 0b00100100#8 0b00000000#8 = some .clrpr ∧ cmd 0b00100100#8 0b00000001#8 = some .clrps ∧
      cmd 0b00100100#8 0b00000010#8 = some .clrto := by
  decide

theorem test_decode_flags :
    cmd 0b00100101#8 0b00000000#8 = some .clrfPr ∧ cmd 0b00100101#8 0b00000001#8 = some .clrfPs ∧
      cmd 0b00100101#8 0b00000010#8 = some .clrfTo ∧ cmd 0b00100110#8 0b00000000#8 = some .rdfPr ∧
      cmd 0b00100110#8 0b00000001#8 = some .rdfPs ∧ cmd 0b00100110#8 0b00000010#8 = some .rdfTo ∧
      cmd 0b00100111#8 0b00000000#8 = some .mappr ∧ cmd 0b00100111#8 0b00000001#8 = some .mapps ∧
      cmd 0b00100111#8 0b00000010#8 = some .mapto := by
  decide

theorem test_decode_timeout :
    cmd 0b00110000#8 0b00000000#8 = some .toenOff ∧ cmd 0b00110000#8 0b00000001#8 = some .toenOn ∧
      cmd 0b00110001#8 0b00000000#8 = some .forceto ∧ cmd 0b00110010#8 0b00000000#8 = some .pwrfull := by
  decide

/-- Vectors V41 and V112. -/
theorem test_decode_reserved :
    cmd 0x10#8 0x05#8 = none ∧ cmd 0xFF#8 0x00#8 = none ∧ cmd 0x04#8 0x01#8 = none ∧ cmd 0x25#8 0x03#8 = none ∧
      cmd 0x30#8 0x02#8 = none ∧ cmd 0x00#8 0x00#8 = none ∧ cmd 0x01#8 0x01#8 = none ∧ cmd 0x20#8 0x80#8 = none := by
  decide

theorem test_decode_reads :
    bus [0b00000001#8, 0b00000000#8] = some (.rdregOpmode 0x00#8) ∧
      bus [0b00010000#8, 0x00#8] = some (.rdregVersion 0x00#8) ∧ bus [0b00010001#8, 0x00#8] = some (.rdregPower 0x00#8) ∧
      bus [0b00100100#8, 0x00#8] = some (.rdregRssi 0x00#8) ∧ bus [0b00100101#8, 0x00#8] = some (.rdregPinmapA 0x00#8) ∧
      bus [0b00100110#8, 0x00#8] = some (.rdregPinmapB 0x00#8) ∧ bus [0b00100111#8, 0x00#8] = some (.rdregIrq1 0x00#8) ∧
      bus [0b00101000#8, 0x00#8] = some (.rdregIrq2 0x00#8) ∧ bus [0b00101010#8, 0x00#8] = some (.rdregRxto1 0x00#8) ∧
      bus [0b00101011#8, 0x00#8] = some (.rdregRxto2 0x00#8) ∧ bus [0b00110011#8, 0x00#8] = some (.rdreg 0x33#7 0x00#8) := by
  decide

theorem test_decode_writes :
    bus [0b10000001#8, 0b00010000#8] = some (.wrregOpmode 0x10#8) ∧
      bus [0b10010000#8, 0x01#8] = some (.wrregVersion 0x01#8) ∧ bus [0b10010001#8, 0x02#8] = some (.wrregPower 0x02#8) ∧
      bus [0b10100100#8, 0x04#8] = some (.wrregRssi 0x04#8) ∧ bus [0b10100101#8, 0x47#8] = some (.wrregPinmapA 0x47#8) ∧
      bus [0b10100110#8, 0x37#8] = some (.wrregPinmapB 0x37#8) ∧ bus [0b10100111#8, 0x00#8] = some (.wrregIrq1 0x00#8) ∧
      bus [0b10101000#8, 0x80#8] = some (.wrregIrq2 0x80#8) ∧ bus [0b10101010#8, 0xFF#8] = some (.wrregRxto1 0xFF#8) ∧
      bus [0b10101011#8, 0xFE#8] = some (.wrregRxto2 0xFE#8) ∧ bus [0b11111111#8, 0x12#8] = some (.wrreg 0x7F#7 0x12#8) := by
  decide

theorem test_decode_bursts :
    bus [0b10000000#8, 0x03#8, 0x11#8] = some (.fifowr [0x03#8, 0x11#8]) ∧ bus [0b10000000#8, 0x03#8] = some (.fifowr [0x03#8]) ∧
      bus [0b00000000#8, 0x00#8, 0x00#8] = some (.fiford [0x00#8, 0x00#8]) ∧ bus [] = none ∧ bus [0x81#8] = none ∧
      bus [0x81#8, 0x10#8, 0x00#8] = none ∧ decoded? cfgH0 .command [0x01#8] = none := by
  decide

/-- The table's own numbering (log 13). -/
theorem test_decode_table_words :
    decodeTableWord 16 0x0100 = some .sel ∧ decodeTableWord 16 0x3100 = some .forceto ∧
      decodeTableWord 16 0xAAFF = some (.wrregRxto1 0xFF#8) ∧ decodeTableWord 16 0x33FF = some (.rdreg 0x33#7 0xFF#8) ∧
      decodeTableWord 8 0x80 = some (.fifowr [0x00#8]) ∧ decodeTableWord 8 0x00 = some (.fiford [0x00#8]) := by
  decide

/-! ## One step each: register port (V1 to V19) -/

theorem test_rdreg_opmode :
    frames (exec (.rdregOpmode 0x00#8) hostH) = some [([0x01#8, 0x00#8], [0x04#8])] ∧
      (after (exec (.rdregOpmode 0x00#8) hostH)).map (·.caller.result) = some (.byte 0x04#8) := by
  decide

theorem test_rdreg_version_and_rssi :
    frames (exec (.rdregVersion 0x00#8) hostH) = some [([0x10#8, 0x00#8], [0x24#8])] ∧
      (after (exec (.rdregRssi 0x00#8) { hostH with chip := { hostH.chip with rssiRaw := 0x5A#8 } })).map
          (·.caller.result) = some (.byte 0x5A#8) := by
  decide

theorem test_rdreg_pinmaps_and_durations :
    (after (exec (.rdregPinmapA 0x00#8) (withReg 0x25#7 0x47#8 hostH))).map (·.caller.result) = some (.byte 0x47#8) ∧
      (after (exec (.rdregPinmapB 0x00#8) (withReg 0x26#7 0x37#8 hostH))).map (·.caller.result) = some (.byte 0x37#8) ∧
      (after (exec (.rdregRxto1 0x00#8) (withReg 0x2A#7 0xFF#8 hostH))).map (·.caller.result) = some (.byte 0xFF#8) ∧
      (after (exec (.rdregRxto2 0x00#8) (withReg 0x2B#7 0x01#8 hostH))).map (·.caller.result) = some (.byte 0x01#8) := by
  decide

/-- V5: no block state changes. -/
theorem test_rdreg_undecoded :
    (after (exec (.rdreg 0x33#7 0x00#8) hostH)).map (fun t => (t.chip, t.latch, t.pins, t.port)) =
        some (hostH.chip, hostH.latch, hostH.pins, hostH.port) ∧
      (after (exec (.rdregPower 0x00#8) hostH)).map (·.chip) = some hostH.chip := by
  decide

/-- V2, V6. -/
theorem test_wrreg_storage :
    frames (exec (.wrregRxto1 0xFF#8) hostH) = some [([0xAA#8, 0xFF#8], [])] ∧
      (after (exec (.wrregRxto1 0xFF#8) hostH)).map (·.reg 0x2A#7) = some 0xFF#8 ∧
      (after (exec (.wrregRxto2 0x12#8) hostH)).map (fun t => (t.reg 0x2A#7, t.reg 0x2B#7)) = some (0x00#8, 0x12#8) ∧
      (after (exec (.wrreg 0x33#7 0x12#8) hostH)).map (·.chip) = some hostH.chip := by
  decide

/-- V7 and R106. -/
theorem test_wrreg_refused :
    refusal (exec (.wrregIrq1 0x00#8) hostH) = some .refusedWrite ∧ refusal (exec (.wrregIrq2 0x00#8) hostH) = some .refusedWrite ∧
      refusal (exec (.wrregVersion 0x00#8) hostH) = some .refusedWrite ∧
      refusal (exec (.wrregPower 0x00#8) hostH) = some .refusedWrite ∧
      refusal (exec (.wrregRssi 0x00#8) hostH) = some .refusedWrite ∧
      refusal (exec (.wrregRxto1 0xFF#8) hostS) = some .familyMismatch := by
  decide

/-- V8, V9. -/
theorem test_wrreg_opmode :
    refusal (exec (.wrregOpmode 0x14#8) hostH) = some .reservedModePattern ∧
      (after (exec (.wrregOpmode 0x10#8) hostH)).map State.mode? = some (some .receive) := by
  decide

/-- V87 and R79: an unknown selector drives the pin low; a known one raises it at once. -/
theorem test_wrreg_pinmaps :
    (after (exec (.wrregPinmapA 0x80#8) (withPins true false false (withHw true true false hostH)))).map (·.pins) =
        some ⟨false, false, false, false⟩ ∧
      (after (exec (.wrregPinmapB 0x3F#8) (withReg 0x26#7 0xC0#8 (withHw false false true hostH)))).map (·.pins) =
        some ⟨false, true, true, false⟩ := by
  decide

/-- V10, V13. -/
theorem test_fifowr :
    frames (exec (.fifowr [0x03#8, 0x11#8, 0xAA#8, 0xBB#8]) hostH) = some [([0x80#8, 0x03#8, 0x11#8, 0xAA#8, 0xBB#8], [])] ∧
      (after (exec (.fifowr [0xAA#8, 0xBB#8]) (withFifo [0x03#8, 0x11#8] hostH))).map (·.chip.fifo) =
        some [0x03#8, 0x11#8, 0xAA#8, 0xBB#8] ∧
      refusal (exec (.fifowr (List.replicate 66 0x00#8)) hostH) = some .burstTooLong := by
  decide

/-- V11. -/
theorem test_fiford :
    frames (exec (.fiford [0x00#8]) (withFifo [0x03#8, 0x11#8] hostH)) = some [([0x00#8, 0x00#8], [0x03#8])] ∧
      (after (exec (.fiford [0x00#8, 0x00#8]) (withFifo [0x11#8, 0xAA#8, 0xBB#8] hostH))).map
          (fun t => (t.caller.result, t.chip.fifo)) = some (.bytes [0x11#8, 0xAA#8], [0xBB#8]) := by
  decide

/-- V14, V15. -/
theorem test_sel_desel_xfer :
    (after (exec .sel hostH)).map (·.port.busSelected) = some true ∧
      refusal (exec .sel (opened [] hostH)) = some .transactionOpen ∧ refusal (exec (.xfer 0x01#8) hostH) = some .noTransaction ∧
      refusal (exec .desel hostH) = some .noTransaction := by
  decide

/-- V16: the close of the raw write has the write's effect, or faults in the settle window, unless a DELAY has ended it
inside the bracket (log 36); the slot of a raw read gives the register. -/
theorem test_raw_transactions :
    (after (exec .desel (opened [0x81#8, 0x10#8] hostH))).map (fun t => (t.mode?, t.port.busSelected)) =
        some (some .receive, false) ∧
      (after (exec .desel (opened [0x81#8, 0x10#8] (settling hostH)))).map (·.caller.faults) =
        some [.unsettledAccess 0x01#7] ∧
      (after (thenRun (exec .delay (opened [0x81#8, 0x10#8] (settling hostH))) (exec .desel))).map
          (fun t => (t.mode?, t.caller.faults)) = some (some .receive, []) ∧
      (after (exec (.xfer 0x00#8) (opened [0x01#8] hostH))).map (·.caller.result) = some (.byte 0x04#8) := by
  decide

/-- V17, V110. -/
theorem test_delay_and_pwron :
    (after (exec .delay (settling hostH))).map (·.port.settlePending) = some false ∧
      (after (exec .pwron (withShadows 0x04#8 0x00#8 (withFifo [0x01#8] (withHw true true true hostH))))).map
          (fun t => (t.chip.hw, t.chip.fifo, t.pins, t.port.settlePending, t.latch.shadow1)) =
        some (⟨false, false, false⟩, [], ⟨false, false, false, false⟩, true, 0x04#8) := by
  decide

/-- V18, V111. -/
theorem test_unsettled_access :
    (after (exec (.rdregVersion 0x00#8) (settling hostH))).map (fun t => (t.caller.faults, t.caller.hostStopped, t.chip)) =
      some ([.unsettledAccess 0x10#7], true, hostH.chip) := by
  decide

/-- R24, R30, R29: an Isr read of a Host register is refused, as a frame and at the close of a raw bracket; a status
register it may read. -/
theorem test_host_only_registers :
    refusal (exec (.rdregOpmode 0x00#8) isrH) = some .wrongAgent ∧ refusal (exec (.rdregPinmapB 0x00#8) isrH) = some .wrongAgent ∧
      refusal (exec (.rdregRxto1 0x00#8) isrH) = some .wrongAgent ∧
      refusal (exec .desel (opened [0x25#8, 0x00#8] isrH)) = some .wrongAgent ∧
      (after (exec (.rdregIrq1 0x00#8) isrH)).isSome = true := by
  decide

/-- R148: with no chip a read completes, and REG_VERSION alone tells. -/
theorem test_absent_chip :
    (after (exec (.rdregVersion 0x00#8) (ready cfgAbsent .host))).map (·.caller.result) = some (.byte 0x00#8) ∧
      (after (exec (.rdregRssi 0x00#8) (ready cfgAbsent .host))).map (·.chip) = some hostH.chip := by
  decide

/-! ## Status reads by family (V20 to V23) -/

theorem test_status_view :
    ∀ d : Byte,
      let v := statusView .two d (withHw false true false hostH)
      bitOf v 3 = true ∧ bitOf v 2 = false ∧ bitOf v 1 = false := by
  decide

theorem test_status_reads :
    (after (exec (.rdregIrq2 0x00#8) (withHw false true false hostH))).map (·.chip.hw) = some ⟨false, true, false⟩ ∧
      (after (exec (.rdregIrq2 0x00#8) (withHw false true true hostS))).map (·.chip.hw) = some ⟨false, false, true⟩ ∧
      (after (exec (.rdregIrq1 0x00#8) (withHw true false true hostS))).map (·.chip.hw) = some ⟨true, false, false⟩ := by
  decide

/-! ## Mode controller (V30 to V40) -/

theorem test_setmode_from_ff :
    (after (exec .setmodeSleep (withReg 0x01#7 0xFF#8 hostH))).map (·.reg 0x01#7) = some 0xE3#8 ∧
      (after (exec .setmodeStandby (withReg 0x01#7 0xFF#8 hostH))).map (·.reg 0x01#7) = some 0xE7#8 ∧
      (after (exec .setmodeFrequencySynth (withReg 0x01#7 0xFF#8 hostH))).map (·.reg 0x01#7) = some 0xEB#8 ∧
      (after (exec .setmodeTransmit (withReg 0x01#7 0xFF#8 hostH))).map (·.reg 0x01#7) = some 0xEF#8 ∧
      (after (exec .setmodeReceive (withReg 0x01#7 0xFF#8 hostH))).map (·.reg 0x01#7) = some 0xF3#8 := by
  decide

theorem test_setmode_frames_and_settle :
    frames (exec .setmodeStandby hostH) = some [([0x01#8, 0x00#8], [0x04#8]), ([0x81#8, 0x04#8], [])] ∧
      (after (exec .setmodeStandby (withReg 0x01#7 0x00#8 hostH))).map (·.port.settlePending) = some true ∧
      (after (exec .setmodeSleep (withReg 0x01#7 0x00#8 hostH))).map (·.port.settlePending) = some false := by
  decide

/-! ## Latch (V42 to V59) -/

theorem test_irqsvc :
    (after (exec .irqsvc (withHw true false false isrH))).map (fun t => (t.pins, t.chip.hw)) =
        some (⟨false, false, false, false⟩, ⟨true, false, false⟩) ∧
      (after (exec .irqsvc (withPins true true true (withHw true true true isrS)))).map (fun t => (t.pins, t.chip.hw)) =
        some (⟨false, false, false, false⟩, ⟨false, false, false⟩) ∧
      (after (exec .irqsvc (opened [] isrH))).map (·.pins.irqPend) = some true := by
  decide

theorem test_clear_and_clrf :
    (after (exec .clear (withShadows 0x84#8 0x46#8 hostH))).map (fun t => (t.latch.shadow1, t.latch.shadow2, t.env.bus)) =
        some (0x00#8, 0x00#8, []) ∧
      (after (exec .clrfPs (withShadows 0x04#8 0x0C#8 hostH))).map (fun t => (t.latch.shadow1, t.latch.shadow2)) =
        some (0x00#8, 0x00#8) ∧
      (after (exec .clrfPs (withBits true true false hostS))).map (·.latch.bits) = some ⟨true, false, false⟩ ∧
      (after (exec .clrfPr (withBits true true true hostS))).map (·.latch.bits) = some ⟨false, true, true⟩ ∧
      (after (exec .clrfTo (withBits true true true hostS))).map (·.latch.bits) = some ⟨true, true, false⟩ := by
  decide

theorem test_clear_each :
    (after (exec .clrpr (withBits true true true hostS))).map (·.latch.bits) = some ⟨false, true, true⟩ ∧
      (after (exec .clrps (withBits true true true hostS))).map (·.latch.bits) = some ⟨true, false, true⟩ ∧
      (after (exec .clrto (withBits true true true hostS))).map (·.latch.bits) = some ⟨true, true, false⟩ := by
  decide

/-- V50, V59. -/
theorem test_family_mismatch :
    refusal (exec .latch isrH) = some .familyMismatch ∧ refusal (exec .clrpr hostH) = some .familyMismatch ∧
      refusal (exec .sample isrS) = some .familyMismatch ∧ refusal (exec .clear hostS) = some .familyMismatch := by
  decide

/-- V19 and R168. -/
theorem test_rdf :
    (after (exec .rdfTo (settling (withShadows 0x84#8 0x40#8 hostH)))).map (·.caller.result) = some (.flag true) ∧
      (after (exec .rdfPr (withShadows 0x84#8 0x40#8 hostH))).map (·.caller.result) = some (.flag false) ∧
      (after (exec .rdfPs (withShadows 0x00#8 0x08#8 hostH))).map (·.caller.result) = some (.flag true) := by
  decide

/-- V47, V48, V57. -/
theorem test_forceto :
    (after (exec .forceto (withShadows 0x80#8 0x00#8 (ready cfgH0 .timer)))).map (·.latch.shadow1) = some 0x84#8 ∧
      (after (exec .forceto (withShadows 0xFB#8 0x00#8 (ready cfgH0 .timer)))).map (·.latch.shadow1) = some 0xFF#8 ∧
      (after (exec .forceto (ready cfgS0 .timer))).map (·.latch.bits) = some ⟨false, false, true⟩ := by
  decide

/-- V52: LATCH with no hardware flag keeps the booleans; V42: SAMPLE leaves the chip alone. -/
theorem test_sample_and_latch :
    (after (exec .sample (withHw true false false isrH))).map (·.chip.hw) = some ⟨true, false, false⟩ ∧
      (after (exec .latch (withHw true false false isrS))).map (·.chip.hw) = some ⟨false, false, false⟩ := by
  decide

/-! ## Pin mapping (V80 to V86) -/

theorem test_map :
    frames (exec .mappr (withReg 0x25#7 0x07#8 hostH)) = some [([0x25#8, 0x00#8], [0x07#8]), ([0xA5#8, 0x47#8], [])] ∧
      (after (exec .mappr (withReg 0x25#7 0xFF#8 hostH))).map (·.reg 0x25#7) = some 0x7F#8 ∧
      (after (exec .mapps (withReg 0x25#7 0xFF#8 hostH))).map (·.reg 0x25#7) = some 0x3F#8 ∧
      (after (exec .mapto (withReg 0x26#7 0xF7#8 hostH))).map (·.reg 0x26#7) = some 0x37#8 := by
  decide

theorem test_map_edge :
    (after (exec .mappr (withHw true false false hostH))).map (·.pins) = some ⟨true, false, true, false⟩ := by
  decide

/-! ## Radio steps (V84 to V94) -/

theorem test_ev_pr :
    (radioStep (.payloadReady 0x03#8 [] true 0x5A#8) (withReg 0x25#7 0x40#8 (withReg 0x01#7 0x10#8 hostH))).pins =
        ⟨true, false, true, false⟩ ∧
      (radioStep (.payloadReady 0x03#8 [] true 0x5A#8) (withReg 0x01#7 0x10#8 hostH)).pins =
        ⟨false, false, false, false⟩ ∧
      radioStep (.payloadReady 0x03#8 [] true 0x5A#8) hostH = hostH := by
  decide

theorem test_countdown :
    (withReg 0x01#7 0x10#8 hostH).armed = false ∧ (withReg 0x2B#7 0x01#8 (withReg 0x01#7 0x10#8 hostH)).armed = true ∧
      radioEnabled (withHw true false false (withReg 0x2B#7 0x01#8 (withReg 0x01#7 0x10#8 hostH))) .timeout = true ∧
      radioEnabled (withFifo [0x01#8] (withHw true false false (withReg 0x01#7 0x10#8 hostH))) (.autoClear .pr) = false ∧
      radioEnabled (withFifo [0x01#8] (withHw true false false hostH)) (.autoClear .pr) = true := by
  decide

/-- R252, AUTOCLEAR = datasheet: leaving Receive clears Timeout and, with the FIFO empty, PayloadReady; leaving
Transmit clears PacketSent. -/
theorem test_datasheet_clears :
    (after (exec .setmodeStandby (datasheet (withReg 0x01#7 0x10#8 (withHw true true true hostH))))).map (·.chip.hw) =
        some ⟨false, true, false⟩ ∧
      (after (exec .setmodeStandby (datasheet (withReg 0x01#7 0x0C#8 (withHw true true true hostH))))).map (·.chip.hw) =
        some ⟨true, false, true⟩ := by
  decide

/-- R272, log 35: a service that is taken is counted, and PWRON, which drops the request too, is not; a stale flag is no
event. -/
theorem test_seen_services :
    (after (exec .irqsvc isrH)).map (·.seen) = some ⟨1, false, false⟩ ∧
      (after (exec .pwron (pending hostH))).map (·.seen) = some ⟨0, false, false⟩ ∧
      (radioStep .packetSent (withReg 0x01#7 0x0C#8 (withHw false true false hostH))).seen = ⟨0, false, false⟩ := by
  decide

/-- R272: EV_PS counts while Transmit stays, and no longer once it has been left; EV_TO while the countdown stays armed. -/
theorem test_seen_events :
    let sent := radioStep .packetSent (withReg 0x01#7 0x0C#8 hostH)
    let fired := radioStep .timeout (withReg 0x2A#7 0x01#8 (withReg 0x01#7 0x10#8 hostH))
    sent.seen = ⟨0, true, false⟩ ∧ fired.seen = ⟨0, false, true⟩ ∧
      (after (exec .setmodeTransmit sent)).map (·.seen.packetSent) = some true ∧
      (after (exec .setmodeStandby sent)).map (·.seen.packetSent) = some false ∧
      (after (exec (.wrregRxto1 0x02#8) fired)).map (·.seen.timedOut) = some true ∧
      (after (exec (.wrregRxto1 0x00#8) fired)).map (·.seen.timedOut) = some false := by
  decide

/-! ## Timeout arbiter (V58, V100 to V103) -/

theorem test_toen_h :
    frames (exec .toenOn (withReg 0x26#7 0xC0#8 hostH)) =
        some [([0x26#8, 0x00#8], [0xC0#8]), ([0xA6#8, 0x00#8], []), ([0xAA#8, 0xFF#8], []), ([0xAB#8, 0xFF#8], [])] ∧
      (after (exec .toenOff (withReg 0x2A#7 0xFF#8 (withReg 0x2B#7 0xFF#8 hostH)))).map
          (fun t => (t.reg 0x2A#7, t.reg 0x2B#7)) = some (0x00#8, 0x00#8) := by
  decide

theorem test_toen_s :
    frames (exec .toenOn (withReg 0x26#7 0xC0#8 hostS)) = some [([0x26#8, 0x00#8], [0xC0#8]), ([0xA6#8, 0x00#8], [])] ∧
      (after (exec .toenOff (withBits true true true hostS))).map (·.latch.bits) = some ⟨true, true, false⟩ := by
  decide

theorem test_pwrfull : (after (exec .pwrfull hostH)).map (·.chip.outputPower) = some 13 := by
  decide

/-! ## Framing (V60 to V62) -/

theorem test_encode_frame :
    cfgH0.encodeFrame [0xAA#8, 0xBB#8] 0x11#8 = [0x03#8, 0x11#8, 0xAA#8, 0xBB#8] ∧
      cfgH0.encodeFrame [] 0x11#8 = [0x01#8, 0x11#8] ∧
      (cfgH0.encodeFrame (List.replicate 100 0x07#8) 0xFF#8).length = 65 ∧
      (cfgH0.encodeFrame (List.replicate 100 0x07#8) 0xFF#8).head? = some 0x40#8 := by
  decide

theorem test_malformed_length :
    (after (stmt ⟨.readpl 8, 1, .fresh⟩ (withPos [⟨.readpl 8, 1, .fresh⟩] hostH))).map
        (fun t => (t.caller.faults, t.caller.hostStopped, t.caller.hostPos)) = some ([.malformedLength], true, []) := by
  decide

/-! ## The reset state, and the interface -/

theorem test_reset_memory : Memory.wf State.reset.chip.regs = true := by
  decide

theorem test_fetch_word :
    (after (step (State.reset.withFetchWord 16 0x3100))).map (·.latch.shadow1) = some 0x04#8 ∧
      (after (step (State.reset.withFetchWord 16 0x0400))).map (·.port.settlePending) = some false := by
  decide

/-! ## Witnesses: a state and operands that meet the hypotheses of each statement, clause by clause -/

theorem witness_DecodeOfEncodeIsTheInstruction :
    (Instr.rdreg 0x7F#7 0xFF#8).wf cfgH0 = true ∧ (Instr.wrreg 0x02#7 0x00#8).wf cfgS0 = true ∧
      (Instr.fiford [0x00#8]).wf cfgH0 = true ∧ (Instr.xfer 0xFF#8).wf cfgH0 = true := by
  decide

theorem witness_EncodeOfDecodeIsTheBytes :
    decode cfgH0 .bus [0xFF#8, 0x00#8] = .ok (.wrreg 0x7F#7 0x00#8) ∧ decode cfgH0 .command [0x32#8, 0x00#8] = .ok .pwrfull ∧
      decode cfgH0 .bus [0x00#8, 0x01#8, 0x02#8] = .ok (.fiford [0x01#8, 0x02#8]) :=
  ⟨rfl, rfl, rfl⟩

/-- A command word that the statement on reserved words covers. -/
abbrev edge (o p : Byte) : Prop :=
  o ≠ 0x03#8 ∧
    (o ++ p : BitVec 16) ∉
      [0x0100#16, 0x0200#16, 0x0400#16, 0x0500#16, 0x1000#16, 0x1001#16, 0x1002#16, 0x1003#16, 0x1004#16, 0x2000#16,
        0x2100#16, 0x2200#16, 0x2300#16, 0x2400#16, 0x2401#16, 0x2402#16, 0x2500#16, 0x2501#16, 0x2502#16, 0x2600#16,
        0x2601#16, 0x2602#16, 0x2700#16, 0x2701#16, 0x2702#16, 0x3000#16, 0x3001#16, 0x3100#16, 0x3200#16]

/-- The words next to the map's edges, from two agents, and the frames of no, of one and of three bytes. -/
theorem witness_ReservedEncodingsAreRefused :
    mayAct .host hostH = true ∧ mayAct .isr hostH = true ∧ hostH.caller.hostPos = [] ∧
      (withInput [.op .host .command [0x04#8, 0x01#8] []] hostH).env.input = [.op .host .command [0x04#8, 0x01#8] []] ∧
      (∀ l ∈ [[], [0x81#8], [0x81#8, 0x10#8, 0x00#8]],
        (withInput [.op .host .bus l []] hostH).env.input = [.op .host .bus l []] ∧
          refusal (step (withInput [.op .host .bus l []] hostH)) = some .badShape) ∧
      addrOf 0x81#8 ≠ hostH.cfg.regFifo ∧
      edge 0x04#8 0x01#8 ∧ edge 0x10#8 0x05#8 ∧ edge 0x00#8 0x00#8 ∧ edge 0xFF#8 0xFF#8 ∧ edge 0x33#8 0x00#8 := by
  refine ⟨by decide, by decide, by decide, rfl, by decide, by decide, ?_, ?_, ?_, ?_, ?_⟩ <;> decide

theorem witness_StepRunsTheDecodedInstruction :
    let s := withInput [.op .host .bus [0xAA#8, 0xFF#8] [[.irqsvc]]] hostH
    s.env.input = .op .host .bus [0xAA#8, 0xFF#8] [[.irqsvc]] :: [] ∧ mayAct .host s = true ∧ s.caller.hostPos = [] ∧
      decode s.cfg .bus [0xAA#8, 0xFF#8] = .ok (.wrregRxto1 0xFF#8) :=
  ⟨rfl, rfl, rfl, rfl⟩

theorem witness_FetchWordRunsItsInstruction :
    decode State.reset.cfg (tableBytes 16 0x2000).1 (tableBytes 16 0x2000).2 = .ok .irqsvc ∧
      decode State.reset.cfg (tableBytes 8 0x80).1 (tableBytes 8 0x80).2 = .ok (.fifowr [0x00#8]) :=
  ⟨rfl, rfl⟩

theorem witness_HostTurnExecutesTheNextStatement :
    let s := withPos [⟨.sleep, 0, .fresh⟩] (withInput [.host []] hostH)
    s.env.input = .host [] :: [] ∧ hostMayAct s = true ∧ s.caller.hostPos = ⟨.sleep, 0, .fresh⟩ :: [] := by
  decide

theorem witness_SelOpensABracket :
    HostOrIsrMay hostH ∧ hostH.port.busSelected = false ∧ HostOrIsrMay (opened [] isrH) ∧
      (opened [] isrH).port.busSelected = true := by
  decide

/-- Each slot of the clauses: a closed port, the address slot, the data slot of a register read (of the Isr and of the
Host) and of a FIFO read. -/
theorem witness_XferExchangesOneByte :
    HostOrIsrMay hostH ∧ hostH.port.busSelected = false ∧
      (∀ p ∈ [(isrH, 0x7F#8), (hostH, 0x01#8)],
        let s := opened [p.2] p.1
        HostOrIsrMay s ∧ s.port.busSelected = true ∧ s.port.owner = s.env.agent ∧ s.port.sent = [p.2] ∧
          writeBit p.2 = false ∧ s.port.settlePending = false ∧ MayRead s (addrOf p.2) ∧ addrOf p.2 ≠ s.cfg.regFifo) ∧
      (let s := withFifo [0x03#8, 0x11#8] (opened [0x00#8, 0x00#8] hostH)
       HostMay s ∧ s.port.busSelected = true ∧ s.port.owner = s.env.agent ∧ s.port.sent = 0x00#8 :: [0x00#8] ∧
         writeBit 0x00#8 = false ∧ s.port.settlePending = false ∧ addrOf 0x00#8 = s.cfg.regFifo ∧
         s.cfg.present = true ∧ s.chip.fifo[1]? = some 0x11#8) := by
  decide

/-- Each shape of a bracket, settled, the Host's and (the reads of a register not kept for the Host) the Isr's. -/
theorem witness_DeselClosesTheBracket :
    HostOrIsrMay hostH ∧ hostH.port.busSelected = false ∧
      (∀ l ∈ [[], [0x01#8], [0x01#8, 0x00#8], [0x81#8, 0x10#8], [0x81#8, 0x10#8, 0x00#8], [0x00#8, 0x00#8, 0x00#8],
          [0x80#8, 0x03#8, 0x11#8]],
        let s := opened l hostH
        HostMay s ∧ s.port.busSelected = true ∧ s.port.owner = s.env.agent ∧ s.port.sent = l ∧
          s.port.settlePending = false) ∧
      (let s := opened [0x27#8, 0x00#8] isrH
       HostOrIsrMay s ∧ s.port.busSelected = true ∧ s.port.owner = s.env.agent ∧ s.port.settlePending = false ∧
         MayRead s (addrOf 0x27#8)) ∧
      writeBit 0x01#8 = false ∧ writeBit 0x27#8 = false ∧ writeBit 0x81#8 = true ∧ writeBit 0x00#8 = false ∧
      writeBit 0x80#8 = true ∧ addrOf 0x01#8 ≠ cfgH0.regFifo ∧ addrOf 0x81#8 ≠ cfgH0.regFifo ∧
      addrOf 0x00#8 = cfgH0.regFifo ∧ addrOf 0x80#8 = cfgH0.regFifo ∧
      ([] : List Byte).length + 1 ≤ cfgH0.maxPayload + 2 ∧ (List.replicate 64 0#8).length + 1 ≤ cfgH0.maxPayload + 2 ∧
      cfgH0.maxPayload + 2 < (List.replicate 65 0#8).length + 1 := by
  decide

/-- The Isr's brackets that are refused (a write; a read kept for the Host; both bursts), and the settle window. -/
theorem witness_DeselClosesTheBracket_stops :
    (∀ l ∈ [[0xB3#8, 0x10#8], [0x01#8, 0x00#8], [0x00#8, 0x00#8], [0x80#8, 0x00#8, 0x00#8]],
      let s := opened l isrH
      HostOrIsrMay s ∧ s.port.busSelected = true ∧ s.port.owner = s.env.agent ∧ s.env.agent = .isr ∧
        refusal (exec .desel s) = some .wrongAgent) ∧
      cfgH0.hostOnly (addrOf 0x01#8) = true ∧ cfgH0.hostOnly (addrOf 0x00#8) = true ∧ writeBit 0xB3#8 = true ∧
      (let s := settling (opened [0x81#8, 0x10#8] hostH)
       HostMay s ∧ s.port.busSelected = true ∧ s.port.owner = s.env.agent ∧ s.port.settlePending = true) ∧
      (let s := settling (opened [0x27#8, 0x00#8] isrH)
       HostOrIsrMay s ∧ s.port.busSelected = true ∧ s.port.owner = s.env.agent ∧ s.port.settlePending = true ∧
         writeBit 0x27#8 = false ∧ MayRead s (addrOf 0x27#8)) := by
  decide

theorem witness_RawWriteBracketEqualsWrreg :
    HostMay hostH ∧ PortReady hostH ∧ 0x01#7 ≠ hostH.cfg.regFifo ∧
      (after (exec (.wrreg 0x01#7 0x10#8) hostH)).isSome = true ∧
      refusal (exec (.wrreg 0x27#7 0x00#8) hostH) = some .refusedWrite := by
  decide

theorem witness_DelayEndsTheSettleWindow : HostMay (settling hostH) ∧ HostMay hostS := by
  decide

theorem witness_PwronSetsTheResetState :
    hostH.cfg.wf = true ∧ Memory.wf hostH.chip.regs = true ∧ HostMay hostH ∧ hostS.cfg.wf = true ∧
      Memory.wf hostS.chip.regs = true ∧ HostMay hostS := by
  decide

/-- One register per clause: the Host's reads, the Isr's, and those refused to the Isr. -/
theorem witness_RegisterReadsReturnAndKeep :
    (∀ p ∈ [(Instr.rdregVersion 0#8, 0x10#7), (.rdregRssi 0#8, 0x24#7), (.rdregOpmode 0#8, 0x01#7),
        (.rdregPinmapA 0#8, 0x25#7), (.rdregPinmapB 0#8, 0x26#7), (.rdregRxto1 0#8, 0x2A#7), (.rdregRxto2 0#8, 0x2B#7),
        (.rdregPower 0#8, 0x11#7), (.rdreg 0x7F#7 0#8, 0x7F#7)],
      readOf p.1 = some (p.2, 0#8) ∧ p.2 ≠ cfgH0.regFifo ∧ p.2 ≠ cfgH0.regIrq1 ∧ p.2 ≠ cfgH0.regIrq2) ∧
      cfgH0.wf = true ∧ HostMay hostH ∧ PortReady hostH ∧ isrH.env.agent = .isr ∧ PortReady isrH ∧
      (∀ a ∈ [0x10#7, 0x24#7, 0x11#7, 0x7F#7], MayRead isrH a) ∧ MayRead hostH 0x01#7 ∧
      hostH.cfg.present = true ∧ hostH.cfg.family = .h := by
  decide

theorem witness_StatusReadsReturnTheFlags :
    readOf (.rdregIrq1 0#8) = some (cfgH0.regIrq .one, 0#8) ∧ readOf (.rdregIrq2 0#8) = some (cfgS0.regIrq .two, 0#8) ∧
      hostH.cfg.wf = true ∧ HostOrIsrMay hostH ∧ PortReady hostH ∧ hostH.cfg.family = .h ∧
      isrS.cfg.wf = true ∧ HostOrIsrMay isrS ∧ PortReady isrS ∧ isrS.cfg.family = .s ∧
      hostH.cfg.present = true ∧ (cfgH0.loc .tmo).reg = .one ∧ cfgH0.locCrc.reg = .two := by
  decide

theorem witness_ModeRegisterWrites :
    hostH.cfg.wf = true ∧ Memory.wf hostH.chip.regs = true ∧ writeOf (.wrregOpmode 0xF3#8) = some (hostH.cfg.regOpmode, 0xF3#8) ∧
      HostMay hostH ∧ PortReady hostH ∧ hostH.cfg.modeOf 0xF3#8 = some .receive ∧ hostH.cfg.modeOf 0x14#8 = none ∧
      hostH.cfg.autoClear = .draw ∧ hostS.cfg.family = .s ∧ PinsCurrent hostH ∧ (pending hostH).pins.irqPend = true ∧
      PinsCurrent (pending hostH) ∧ HostMay (pending hostH) ∧ PortReady (pending hostH) ∧
      DatasheetClears (datasheet hostH).cfg ∧ (datasheet hostH).cfg.wf = true ∧ HostMay (datasheet hostH) ∧
      PortReady (datasheet hostH) := by
  decide

theorem witness_PlainRegisterWrites :
    hostH.cfg.wf = true ∧ HostMay hostH ∧ PortReady hostH ∧ hostH.cfg.family = .h ∧
      writeOf (.wrregPinmapA 0xFF#8) = some (hostH.cfg.regPinmapA, 0xFF#8) ∧
      writeOf (.wrregPinmapB 0xFF#8) = some (hostH.cfg.regPinmapB, 0xFF#8) ∧
      writeOf (.wrregRxto2 0x00#8) = some (hostH.cfg.regRxto2, 0x00#8) ∧
      writeOf (.wrreg 0x7F#7 0x00#8) = some (0x7F#7, 0x00#8) ∧ 0x7F#7 ≠ hostH.cfg.regPinmapA ∧
      0x7F#7 ≠ hostH.cfg.regPinmapB ∧ 0x7F#7 ≠ hostH.cfg.regRxto1 ∧ 0x7F#7 ≠ hostH.cfg.regRxto2 ∧
      0x7F#7 ∉ hostH.cfg.decoded := by
  decide

/-- The five rows whose registers `cfgH0` refuses complete where a configuration has other registers there. -/
theorem witness_PlainRegisterWrites_rows :
    let c := { cfgH0 with regVersion := 0x50#7, regPower := 0x51#7, regRssi := 0x52#7, regIrq1 := 0x53#7, regIrq2 := 0x54#7 }
    c.wf = true ∧ HostMay (ready c .host) ∧ PortReady (ready c .host) ∧
      ∀ p ∈ [(Instr.wrregVersion 0#8, 0x10#7), (.wrregPower 0#8, 0x11#7), (.wrregRssi 0#8, 0x24#7), (.wrregIrq1 0#8, 0x27#7),
          (.wrregIrq2 0#8, 0x28#7)],
        writeOf p.1 = some (p.2, 0#8) ∧ p.2 ∉ c.decoded ∧ p.2 ≠ c.regPinmapA ∧ p.2 ≠ c.regPinmapB ∧ p.2 ≠ c.regRxto1 ∧
          p.2 ≠ c.regRxto2 := by
  decide

theorem witness_RefusedRegisterWrites :
    hostH.cfg.wf = true ∧ HostMay hostH ∧ PortReady hostH ∧ hostH.cfg.family = .h ∧ hostS.cfg.wf = true ∧
      HostMay hostS ∧ PortReady hostS ∧ hostS.cfg.family = .s ∧
      writeOf (.wrregIrq1 0#8) = some (hostH.cfg.regIrq1, 0#8) ∧ writeOf (.wrregRssi 0#8) = some (hostH.cfg.regRssi, 0#8) ∧
      writeOf (.wrregRxto1 0#8) = some (hostS.cfg.regRxto1, 0#8) ∧ hostS.cfg.regRxto1 ∉ hostS.cfg.decoded ∧
      hostS.cfg.regRxto1 ≠ hostS.cfg.regPinmapA ∧ hostS.cfg.regRxto1 ≠ hostS.cfg.regPinmapB := by
  decide

theorem witness_FifowrPushesItsBytes :
    HostMay (settling hostH) ∧ (settling hostH).port.busSelected = false ∧ (settling hostH).port.settlePending = true ∧
      HostMay hostH ∧ hostH.port.busSelected = false ∧ hostH.port.settlePending = false ∧
      (List.replicate 65 0x00#8).length ≤ hostH.cfg.maxPayload + 2 ∧
      hostH.cfg.maxPayload + 2 < (List.replicate 66 0x00#8).length ∧
      writeOf (.wrreg 0x00#7 0xAA#8) = some (hostH.cfg.regFifo, 0xAA#8) := by
  decide

theorem witness_FifordPopsTheOldest :
    HostMay hostH ∧ PortReady hostH ∧ readOf (.rdreg 0x00#7 0x00#8) = some (hostH.cfg.regFifo, 0x00#8) ∧
      (withFifo [0x03#8] hostH).chip.fifo[0]? = some 0x03#8 ∧ hostH.cfg.present = true ∧
      ¬ DatasheetClears hostH.cfg ∧
      (let s := withFifo [0x03#8] (datasheet hostH)
       HostMay s ∧ PortReady s ∧ DatasheetClears s.cfg ∧ s.chip.fifo ≠ [] ∧
         (after (exec (.fiford [0#8]) s)).map (·.chip.fifo) = some []) := by
  decide

theorem witness_FifordSplits :
    let s := withFifo [0x03#8, 0x11#8, 0xAA#8] hostH
    HostMay s ∧ PortReady s ∧ [0#8].length + [0#8, 0#8].length ≤ s.chip.fifo.length ∧ [0#8, 0#8] ≠ ([] : List Byte) := by
  decide

theorem witness_UnsettledAccessFaults :
    let s := settling hostH
    HostMay s ∧ s.port.busSelected = false ∧ s.port.settlePending = true ∧
      transactionAddr s.cfg .setmodeReceive = some 0x01#7 ∧ transactionAddr s.cfg .toenOff = some 0x26#7 ∧
      transactionAddr s.cfg (.fiford [0#8]) = some 0x00#7 ∧ transactionAddr s.cfg (.wrreg 0x7F#7 0#8) = some 0x7F#7 := by
  decide

theorem witness_OpenBracketRefusesTransactions :
    let s := opened [0x01#8] hostH
    HostMay s ∧ s.port.busSelected = true ∧ transactionAddr s.cfg .pwrfull = some 0x11#7 ∧
      transactionAddr s.cfg (.rdregIrq1 0#8) = some 0x27#7 := by
  decide

theorem witness_SetmodeReplacesTheModeField :
    let s := { withReg 0x01#7 0xE0#8 hostH with env := { hostH.env with gaps := [[.irqsvc, .forceto]] } }
    s.cfg.wf = true ∧ Memory.wf s.chip.regs = true ∧ HostMay s ∧ PortReady s ∧ s.mode? = some .sleep ∧
      s.cfg.present = true ∧ s.cfg.autoClear = .draw ∧
      (let d := pending (datasheet hostH)
       d.cfg.wf = true ∧ Memory.wf d.chip.regs = true ∧ HostMay d ∧ PortReady d ∧ DatasheetClears d.cfg ∧
         PinsCurrent (atGap d.cfg.regOpmode d) ∧ (atGap d.cfg.regOpmode d).pins.irqPend = true) :=
  ⟨by decide, by decide, by decide, by decide, by decide, by decide, by decide, by decide, by decide, by decide, by decide,
    by decide, ⟨rfl, rfl⟩, rfl⟩

theorem witness_EveryModePairIsLegal :
    (∀ p ∈ [(0x00#8, Mode.sleep), (0x04#8, .standby), (0x08#8, .frequencySynth), (0x0C#8, .transmit), (0x10#8, .receive)],
      let s := withReg 0x01#7 p.1 hostH
      s.cfg.wf = true ∧ Memory.wf s.chip.regs = true ∧ HostMay s ∧ PortReady s ∧ s.mode? = some p.2) := by
  decide

theorem witness_IrqsvcSamplesUnderFamilyH :
    isrH.cfg.wf = true ∧ isrH.cfg.present = true ∧ isrH.cfg.family = .h ∧ isrH.env.agent = .isr ∧
      irqEnabled isrH = true ∧ isrH.port.settlePending = false := by
  decide

theorem witness_IrqsvcLatchesUnderFamilyS :
    let s := withPins true true true (withHw true true true isrS)
    s.cfg.wf = true ∧ s.cfg.present = true ∧ s.cfg.family = .s ∧ s.env.agent = .isr ∧ irqEnabled s = true ∧
      s.port.settlePending = false ∧ s.pins.level0 = s.pinFn0 ∧ s.pins.level1 = s.pinFn1 := by
  decide

theorem witness_UnsettledServiceFaultsTheIsr :
    (settling isrH).env.agent = .isr ∧ irqEnabled (settling isrH) = true ∧ (settling isrH).port.settlePending = true := by
  decide

theorem witness_SampleAndLatchByFamily :
    isrH.cfg.wf = true ∧ isrH.env.agent = .isr ∧ PortReady isrH ∧ isrH.cfg.family = .h ∧ isrS.cfg.wf = true ∧
      isrS.env.agent = .isr ∧ PortReady isrS ∧ isrS.cfg.family = .s ∧ isrH.cfg.present = true ∧
      isrS.cfg.present = true ∧ PinsCurrent isrS ∧ isrS.pins.irqPend = true := by
  decide

theorem witness_LatchClearsByFamily :
    HostMay hostH ∧ hostH.cfg.family = .h ∧ (after (exec .clear hostH)).isSome = true ∧ HostMay hostS ∧
      hostS.cfg.family = .s := by
  decide

theorem witness_ClrfClearsByFamily :
    HostMay (withBits true true true hostS) ∧ hostS.cfg.family = .s ∧ Event.pr ≠ .ps ∧
      HostMay (withShadows 0xFF#8 0xFF#8 hostH) ∧ hostH.cfg.family = .h := by
  decide

theorem witness_RdfAnswersTheFlagView : HostMay (settling (opened [] hostH)) ∧ HostMay hostS := by
  decide

theorem witness_MapReplacesThePinField :
    (let s := { withReg 0x25#7 0xFF#8 hostH with env := { hostH.env with gaps := [[.irqsvc]] } }
     s.cfg.wf = true ∧ Memory.wf s.chip.regs = true ∧ HostMay s ∧ PortReady s ∧ s.cfg.present = true) ∧
      (let s := withHw true true true hostH
       s.cfg.wf = true ∧ Memory.wf s.chip.regs = true ∧ HostMay s ∧ PortReady s ∧ s.env.gaps = [] ∧
         (∀ e ∈ [Event.pr, .ps, .tmo], s.chip.hw.get e = true) ∧ s.pins.level0 = false ∧ s.pins.level1 = false) := by
  decide

theorem witness_ToenWritesTheDurations :
    hostH.cfg.wf = true ∧ Memory.wf hostH.chip.regs = true ∧ hostH.cfg.family = .h ∧ HostMay hostH ∧ PortReady hostH ∧
      hostH.env.gaps = [] ∧ hostH.cfg.present = true := by
  decide

theorem witness_ToenClearsTheTimeoutBoolean :
    hostS.cfg.wf = true ∧ Memory.wf hostS.chip.regs = true ∧ hostS.cfg.family = .s ∧ HostMay hostS ∧ PortReady hostS ∧
      hostS.env.gaps = [] ∧ hostS.cfg.present = true := by
  decide

/-- Each of the three clauses: both durations zero; not in Receive; armed with the smallest second duration. -/
theorem witness_CountdownFiresOnlyWhenArmed :
    (let s := withReg 0x01#7 0x10#8 hostH
     s.cfg.family = .h ∧ s.reg s.cfg.regRxto1 = 0x00#8 ∧ s.reg s.cfg.regRxto2 = 0x00#8) ∧
      hostH.mode? ≠ some .receive ∧
      (let s := withReg 0x2B#7 0x01#8 (withReg 0x01#7 0x10#8 hostH)
       s.mode? = some .receive ∧ s.reg s.cfg.regRxto2 ≠ 0x00#8 ∧ s.port.busSelected = false ∧ s.chip.hw.tmo = false) := by
  decide

theorem witness_ForcetoSetsTheTimeoutFlag :
    (let s := ready cfgH0 .timer
     s.cfg.wf = true ∧ s.env.agent = .timer ∧ s.pins.inIsr = false ∧ s.port.busSelected = false ∧ s.cfg.family = .h ∧
       s.cfg.locTo.reg = .one) ∧
      (let s := ready cfgS0 .timer
       s.cfg.wf = true ∧ s.env.agent = .timer ∧ s.pins.inIsr = false ∧ s.port.busSelected = false ∧ s.cfg.family = .s) ∧
      (let s := ready { cfgH0 with locTo := ⟨.two, 7⟩ } .timer
       s.cfg.wf = true ∧ s.cfg.family = .h ∧ s.cfg.locTo.reg = .two) := by
  decide

theorem witness_PwrfullRestoresTheFallback :
    HostMay hostH ∧ hostH.port.busSelected = false ∧ hostH.port.settlePending = false ∧
      (settling hostH).port.settlePending = true := by
  decide

/-- Outside each mode; each hardware flag already 1 in its mode; an open bracket; an Isr with nothing pending, in a service, in an open bracket; a Timer likewise. -/
theorem witness_StepsNotEnabledChangeNothing :
    hostH.mode? ≠ some .receive ∧ hostH.mode? ≠ some .transmit ∧
      (let r := withReg 0x01#7 0x10#8 (withHw true false true hostH)
       r.mode? = some .receive ∧ r.chip.hw.pr = true ∧ r.chip.hw.tmo = true) ∧
      (let x := withReg 0x01#7 0x0C#8 (withHw false true false hostH)
       x.mode? = some .transmit ∧ x.chip.hw.ps = true) ∧
      (opened [] (withReg 0x01#7 0x10#8 hostH)).port.busSelected = true ∧
      (ready cfgH0 .isr).env.agent = .isr ∧ (ready cfgH0 .isr).pins.irqPend = false ∧
      (opened [] isrH).env.agent = .isr ∧ (opened [] isrH).port.busSelected = true ∧
      (∀ ag ∈ [Agent.isr, .timer],
        let s := { ready cfgH0 ag with pins := ⟨false, false, true, true⟩ }
        s.env.agent = ag ∧ s.pins.inIsr = true) ∧
      (opened [] (ready cfgS0 .timer)).env.agent = .timer ∧ (opened [] (ready cfgS0 .timer)).port.busSelected = true := by
  decide

theorem witness_MappedEventsRequestService :
    (let s := withReg 0x25#7 0x40#8 (withReg 0x01#7 0x10#8 hostH)
     s.port.busSelected = false ∧ s.pins.level0 = s.pinFn0 ∧ s.mode? = some .receive ∧ s.chip.hw.pr = false ∧
       s.reg s.cfg.regPinmapA &&& s.cfg.pin0Mask = s.cfg.pin0SelPr) ∧
      (let s := withReg 0x01#7 0x0C#8 hostH
       s.port.busSelected = false ∧ s.pins.level0 = s.pinFn0 ∧ s.mode? = some .transmit ∧ s.chip.hw.ps = false ∧
         s.cfg.pin0SelPs ≠ s.cfg.pin0SelPr ∧ s.reg s.cfg.regPinmapA &&& s.cfg.pin0Mask = s.cfg.pin0SelPs) ∧
      (∀ s ∈ [withReg 0x01#7 0x10#8 hostS, withReg 0x2A#7 0x01#8 (withReg 0x01#7 0x10#8 hostH)],
        s.port.busSelected = false ∧ s.mode? = some .receive ∧ s.chip.hw.tmo = false ∧
          (s.cfg.family = .s ∨ s.reg s.cfg.regRxto1 ≠ 0x00#8 ∨ s.reg s.cfg.regRxto2 ≠ 0x00#8) ∧
          s.pins.level1 = s.pinFn1 ∧ s.reg s.cfg.regPinmapB &&& s.cfg.pin1Mask = s.cfg.pin1SelTo) := by
  decide

/-- Quiet and not quiet for each event, family H; a family S state; AUTOCLEAR = datasheet; a flag 0; an open bracket. -/
theorem witness_AutoClearIsQuiet :
    (let s := withHw true true true hostH
     s.cfg.autoClear = .draw ∧ s.mode? = some .standby ∧ s.port.busSelected = false ∧ s.cfg.family = .h ∧
       (∀ e ∈ [Event.pr, .ps, .tmo], s.chip.hw.get e = true ∧ quiet s e = true)) ∧
      (let s := withFifo [0x01#8] (withReg 0x01#7 0x10#8 (withHw true true true hostH))
       s.mode? = some .receive ∧ quiet s .tmo = false ∧ quiet s .pr = false) ∧
      (let s := withReg 0x01#7 0x0C#8 (withHw true true true hostH)
       s.mode? = some .transmit ∧ quiet s .ps = false) ∧ hostS.cfg.family = .s ∧ hostS.mode? = some .standby ∧
      (datasheet hostH).cfg.autoClear = .datasheet ∧ (datasheet hostH).mode? = some .standby ∧
      hostH.chip.hw.get .pr = false ∧ hostH.mode? = some .standby ∧
      (opened [] hostH).port.busSelected = true ∧ (opened [] hostH).mode? = some .standby := by
  decide

theorem reset_inv : Inv State.reset :=
  ⟨by decide, by decide, by decide, by decide, by decide, by decide, by decide, by decide, by decide, by decide, by decide,
    by decide⟩

/-- The invariant is met, and the step goes on, with a PWRON handed over at reset. -/
theorem witness_EveryStepKeepsTheInvariant :
    Inv (withInput [.op .host .command [0x05#8, 0x00#8] []] State.reset) ∧
      (after (step (withInput [.op .host .command [0x05#8, 0x00#8] []] State.reset))).isSome = true :=
  ⟨⟨by decide, by decide, by decide, by decide, by decide, by decide, by decide, by decide, by decide, by decide, by decide,
    by decide⟩, by decide⟩

/-- Family S, a pin high with its request pending, a Radio event next. -/
theorem witness_NoEdgeIsLostUnderFamilyS :
    let s := withInput [.radio .timeout] (withReg 0x01#7 0x10#8 (withPins true false true (withHw false true false hostS)))
    Inv s ∧ EdgePending s ∧ s.cfg.family = .s ∧ s.pins.level0 = true ∧ (after (step s)).isSome = true :=
  ⟨⟨by decide, by decide, by decide, by decide, by decide, by decide, by decide, by decide, by decide, by decide, by decide,
    by decide⟩, fun _ _ => .inl rfl, rfl, rfl, by decide⟩

theorem witness_FaultsAndConfigurationPersist :
    let s := withInput [.op .host .bus [0x10#8, 0x00#8] []]
      { State.reset with caller := { State.reset.caller with faults := [.malformedLength] } }
    Fault.malformedLength ∈ s.caller.faults ∧
      (after (step s)).map (·.caller.faults) = some [.unsettledAccess 0x10#7, .malformedLength] := by
  decide

theorem witness_OnlyTheHostWritesRegisters :
    (let s := withInput [.op .timer .command [0x31#8, 0x00#8] []] hostH
     s.cfg.wf = true ∧ (after (step s)).isSome = true ∧ Agent.timer ≠ .host) ∧
      (let s := withInput [.radio (.payloadReady 0x01#8 [] true 0x00#8)] (withReg 0x01#7 0x10#8 hostH)
       s.cfg.wf = true ∧ (after (step s)).map (·.chip.fifo) = some [0x01#8]) := by
  decide

/-- The absent chip: the Host's and the Isr's reads, and the Isr's services of both families. -/
theorem witness_AbsentChipAnswersNothing :
    (∀ s ∈ [ready cfgAbsent .host, pending (ready cfgAbsent .isr),
        pending (ready { cfgS0 with versionValue := 0x00#8 } .isr)],
      s.cfg.wf = true ∧ s.cfg.present = false ∧ PortReady s) ∧
      HostMay (ready cfgAbsent .host) ∧ (ready cfgAbsent .isr).env.agent = .isr ∧ MayRead (ready cfgAbsent .isr) 0x27#7 ∧
      MayRead (ready cfgAbsent .host) 0x10#7 ∧ readOf (.rdregOpmode 0#8) = some (0x01#7, 0#8) ∧
      readOf (.rdregVersion 0#8) = some (cfgAbsent.regVersion, 0#8) ∧ 0x01#7 ≠ cfgAbsent.regFifo ∧
      cfgS0.family = .s ∧ cfgAbsent.family = .h := by
  decide

theorem witness_WrongAgentsAreRefused :
    (ready cfgH0 .timer).env.agent ∉ Instr.delay.issuers ∧ hostH.env.agent ∉ Instr.irqsvc.issuers ∧
      isrH.env.agent ∉ Instr.forceto.issuers := by
  decide

theorem witness_FailedInitRefusesTheHost :
    let s := { hostH with caller := { hostH.caller with initFailed := true } }
    s.caller.initFailed = true ∧ s.env.agent = .host ∧ Agent.host ∈ Instr.delay.issuers :=
  ⟨rfl, rfl, by decide⟩

/-- At an event, at the end of a snapshot with a true, and at the end of one without. -/
theorem witness_WaitfReturnsOnlyOnAFlag :
    (∀ f ∈ ([⟨.waitf .pr [.tmo], 1, { Locals.fresh with flags := [false] }⟩,
        ⟨.waitf .pr [.tmo], 2, { Locals.fresh with flags := [false, true] }⟩,
        ⟨.waitf .pr [.tmo], 2, { Locals.fresh with flags := [false, false] }⟩] : List Frame),
      let s := withPos [f] hostH
      f.op = .waitf .pr [.tmo] ∧ s.caller.hostPos = f :: [] ∧ hostMayAct s = true ∧ s.caller.initFailed = false) ∧
      [Event.pr, .tmo][1]? = some .tmo ∧ [Event.pr, .tmo][2]? = none ∧ true ∈ [false, true] ∧ true ∉ [false, false] := by
  decide

/-- A flag not set, and a set one under each family. -/
theorem witness_PollAnswersByTheFlag :
    let p (s : State) : State := withPos [⟨.pollrx, 0, .fresh⟩] (withReg 0x01#7 0x10#8 s)
    (HostAlone (p hostH) [⟨.pollrx, 0, .fresh⟩] ∧ flagView (p hostH) .pr = false) ∧
      ∀ s ∈ [p (withShadows 0x00#8 0x04#8 hostH), p (withBits true false false hostS)],
        HostAlone s [⟨.pollrx, 0, .fresh⟩] ∧ flagView s .pr = true ∧ PortReady s ∧ s.cfg.wf = true ∧
          s.cfg.present = true ∧ Memory.wf s.chip.regs = true := by
  refine ⟨⟨⟨rfl, rfl, rfl, rfl⟩, by decide⟩, fun s h => ?_⟩
  simp only [List.mem_cons, List.not_mem_nil, or_false] at h
  obtain rfl | rfl := h
  · exact ⟨⟨rfl, rfl, rfl, rfl⟩, by decide, by decide, by decide, by decide, by decide⟩
  · exact ⟨⟨rfl, rfl, rfl, rfl⟩, by decide, by decide, by decide, by decide, by decide⟩

/-- Settled with both calls in the schedule, and each call alone in the settle window. -/
theorem witness_SetpwrThenGetpwrClamps :
    let s := withInput [.call (.setpwr 20), .call .getpwr] hostH
    (s.env.input = [.call (.setpwr 20), .call .getpwr] ∧ s.caller.hostPos = [] ∧ hostMayAct s = true ∧
        s.caller.initFailed = false ∧ PortReady s ∧ s.cfg.wf = true ∧ s.cfg.present = true) ∧
      ∀ p : Pseudo, p = .setpwr 20 ∨ p = .getpwr →
        let u := withInput [.call p] (settling hostH)
        u.env.input = [.call p] ∧ u.caller.hostPos = [] ∧ hostMayAct u = true ∧ u.caller.initFailed = false ∧
          u.port.busSelected = false ∧ u.port.settlePending = true ∧ u.cfg.wf = true :=
  ⟨⟨rfl, rfl, rfl, rfl, by decide, by decide, by decide⟩, fun _ _ => ⟨rfl, rfl, rfl, rfl, rfl, rfl, (by decide : hostH.cfg.wf = true)⟩⟩

theorem witness_SetaddrChangesNothingOfTheBlock :
    let l : List Frame := [⟨.setaddr 0x11#8, 0, .fresh⟩]
    (HostAlone (withPos l hostH) l ∧ (withPos l hostH).port.busSelected = false ∧
        (withPos l hostH).port.settlePending = false) ∧
      HostAlone (withPos l (settling hostH)) l ∧ (settling hostH).port.settlePending = true :=
  ⟨⟨⟨rfl, rfl, rfl, rfl⟩, rfl, rfl⟩, ⟨rfl, rfl, rfl, rfl⟩, rfl⟩

theorem witness_SleepThenWakePreservesTheRest :
    let s := withInput [.call .sleep, .call .wake] (withReg 0x01#7 0xE4#8 hostH)
    s.env.input = [.call .sleep, .call .wake] ∧ s.caller.hostPos = [] ∧ hostMayAct s = true ∧
      s.caller.initFailed = false ∧ PortReady s ∧ s.cfg.wf = true ∧ Memory.wf s.chip.regs = true ∧ s.cfg.present = true :=
  ⟨rfl, rfl, by decide, rfl, by decide, by decide, by decide, by decide⟩

/-- Family H from Sleep with stale flags; family S. -/
theorem witness_StartrxArmsTheReceive :
    let l : List Frame := [⟨.startrx true, 0, .fresh⟩]
    let h := withPos l (withReg 0x01#7 0x00#8 (withShadows 0xFF#8 0xFF#8 hostH))
    let s := withPos l (withBits true true true hostS)
    (HostAlone h l ∧ PortReady h ∧ h.cfg.wf = true ∧ Memory.wf h.chip.regs = true ∧ h.cfg.family = .h ∧
        h.cfg.present = true) ∧
      (HostAlone s l ∧ PortReady s ∧ s.cfg.wf = true ∧ Memory.wf s.chip.regs = true) ∧
      cfgAbsent.regPinmapA ≠ cfgAbsent.regPinmapB :=
  ⟨⟨⟨rfl, rfl, rfl, rfl⟩, by decide, by decide, by decide, by decide, by decide⟩,
    ⟨⟨rfl, rfl, rfl, rfl⟩, by decide, by decide, by decide⟩, by decide⟩

/-- An encoded frame, and a length byte 0. -/
theorem witness_ReadplReturnsTheEncodedPayload :
    let l : List Frame := [⟨.readpl 1, 0, .fresh⟩]
    let s := withPos l (withFifo [0x03#8, 0x11#8, 0xAA#8, 0xBB#8] hostH)
    let z := withPos l (withFifo [0x00#8, 0x11#8] hostH)
    (HostAlone s l ∧ PortReady s ∧ s.cfg.wf = true ∧ s.cfg.present = true ∧
        [0xAA#8, 0xBB#8].length ≤ s.cfg.maxPayload ∧ s.chip.fifo = s.cfg.encodeFrame [0xAA#8, 0xBB#8] 0x11#8) ∧
      HostAlone z l ∧ PortReady z ∧ z.chip.fifo = 0x00#8 :: [0x11#8] :=
  ⟨⟨⟨rfl, rfl, rfl, rfl⟩, by decide, by decide, by decide, by decide, by decide⟩, ⟨rfl, rfl, rfl, rfl⟩, by decide, rfl⟩

/-- At its first statement, at its second, and after the wait, under each family. -/
theorem witness_TxplSendsTheTruncatedFrame :
    ∀ n, n = 0 ∨ n = 1 ∨ n = 5 → ∀ s, s = hostH ∨ s = hostS →
      let l : List Frame := [⟨.txpl (List.replicate 64 0x00#8) 0xFF#8, n, .fresh⟩]
      HostAlone (withPos l s) l ∧ PortReady (withPos l s) ∧ (withPos l s).cfg.wf = true ∧
        Memory.wf (withPos l s).chip.regs = true := by
  rintro n (rfl | rfl | rfl) s (rfl | rfl) <;> exact ⟨⟨rfl, rfl, rfl, rfl⟩, by decide, by decide, by decide⟩

/-- Before STARTRX, before the wait, at the wait's answer, and at the decision, with Timeout and without. -/
theorem witness_ReceiveOutcomesReturnToStandby :
    (∀ n : Nat, HostAlone (withPos [⟨.rxpl 8 true, n, .fresh⟩] hostH) [⟨.rxpl 8 true, n, .fresh⟩]) ∧
      hostH.cfg.wf = true ∧
      (let s := { hostH with caller := { hostH.caller with result := .flags [true, false] } }
       HostAlone (withPos [⟨.rxpl 8 true, 2, .fresh⟩] s) [⟨.rxpl 8 true, 2, .fresh⟩] ∧
         s.caller.result = .flags [true, false]) ∧
      ∀ tmo : Bool,
        let l : Locals := { Locals.fresh with tmo := tmo }
        let s := withPos [⟨.rxpl 8 true, 3, l⟩] (withFifo [0x02#8, 0x11#8, 0xAA#8] (withReg 0x01#7 0x10#8 hostH))
        HostAlone s [⟨.rxpl 8 true, 3, l⟩] ∧ l.tmo = tmo ∧ PortReady s ∧ s.cfg.wf = true ∧ s.cfg.present = true ∧
          Memory.wf s.chip.regs = true ∧ s.mode? ≠ some .sleep ∧ [0xAA#8].length ≤ s.cfg.maxPayload ∧
          s.chip.fifo = s.cfg.encodeFrame [0xAA#8] 0x11#8 :=
  ⟨fun _ => ⟨rfl, rfl, rfl, rfl⟩, by decide, ⟨⟨rfl, rfl, rfl, rfl⟩, rfl⟩,
    fun b => by
      cases b <;>
        exact ⟨⟨rfl, rfl, rfl, rfl⟩, rfl, by decide, by decide, by decide, by decide, by decide, by decide, by decide⟩⟩

/-- A present chip and an absent one. -/
theorem witness_InitBringsTheChipUpOrFails :
    let f : Frame := ⟨.init 868000 0x11#8 0xFF#8, 0, .fresh⟩
    let s := withPos [f] hostH
    let a := withPos [f] (ready { cfgH0 with versionValue := 0x00#8 } .host)
    (s.env.input = [] ∧ s.caller.hostPos = f :: [] ∧ hostMayAct s = true ∧ s.cfg.wf = true ∧
        Memory.wf s.chip.regs = true ∧ s.cfg.versionValue ≠ s.cfg.versionInvalid) ∧
      a.env.input = [] ∧ a.caller.hostPos = f :: [] ∧ hostMayAct a = true ∧ a.cfg.wf = true ∧
      Memory.wf a.chip.regs = true ∧ a.cfg.versionValue = a.cfg.versionInvalid := by
  decide

end Sys2Proof.Tests
end

section
/-! SUPPORT. The register writes of R106: the refused registers, and the duration registers by family. -/

namespace Sys2Proof.Machine

theorem exec_write_refused {s : State} {i : Instr} {a : Addr} {d : Byte} {r : Refusal} (hi : writeOf i = some (a, d))
    (h : HostMay s) (hp : PortReady s) (ha : a ≠ s.cfg.regFifo) (he : writeEffect a d s = .error r) :
    exec i s = .refused r := by
  rw [exec_of_writeOf hi, wrregOp_ready h hp ha, he]

theorem exec_write_ok {s t : State} {i : Instr} {a : Addr} {d : Byte} (hi : writeOf i = some (a, d))
    (h : HostMay s) (hp : PortReady s) (ha : a ≠ s.cfg.regFifo) (he : writeEffect a d s = .ok t) :
    exec i s = .next (t.sentFrame [addrByte true a, d] []) := by
  rw [exec_of_writeOf hi, wrregOp_ready h hp ha, he]

theorem refusedWrite_ne_fifo {c : Cfg} (h : c.wf = true) {a : Addr}
    (ha : a ∈ [c.regIrq1, c.regIrq2, c.regVersion, c.regPower, c.regRssi]) : a ≠ c.regFifo := by
  simp only [List.mem_cons, List.not_mem_nil, or_false] at ha
  rcases ha with rfl | rfl | rfl | rfl | rfl
  · exact (irq_ne h).1
  · exact (irq_ne h).2.1
  · exact (version_ne h).1
  · exact (power_ne h).1
  · exact (rssi_ne h).1

theorem writeEffect_refusedWrite {s : State} {a : Addr} (d : Byte)
    (ha : a ∈ [s.cfg.regIrq1, s.cfg.regIrq2, s.cfg.regVersion, s.cfg.regPower, s.cfg.regRssi]) :
    writeEffect a d s = .error .refusedWrite :=
  if_pos ha

/-- Family S has no duration registers: their numbers, where no other register takes them, have no write (R106). -/
theorem writeEffect_rxto_familyS {s : State} (hf : s.cfg.family = .s) {a : Addr}
    (ha : a = s.cfg.regRxto1 ∨ a = s.cfg.regRxto2) (hd : a ∉ s.cfg.decoded) (hA : a ≠ s.cfg.regPinmapA)
    (hB : a ≠ s.cfg.regPinmapB) (d : Byte) : writeEffect a d s = .error .familyMismatch := by
  simp only [Cfg.decoded, hf, List.append_nil, List.mem_cons, List.not_mem_nil, or_false, not_or] at hd
  obtain ⟨-, hOpmode, hVersion, hPower, hRssi, hIrq1, hIrq2⟩ := hd
  simp [writeEffect, hOpmode, hVersion, hPower, hRssi, hIrq1, hIrq2, hA, hB, ha, hf]

theorem regFifo_mem_decoded (c : Cfg) : c.regFifo ∈ c.decoded := by
  simp [Cfg.decoded]

/-- Settles O18, from what the write effect of each register is. -/
theorem refusedRegisterWrites : Obligations.RefusedRegisterWrites := by
  intro s i a d hc hi hHost hp
  refine ⟨fun ha => ?_, fun ha => ⟨fun hf => ?_, fun hf hd hA hB => ?_⟩⟩
  · exact exec_write_refused hi hHost hp (refusedWrite_ne_fifo hc ha) (writeEffect_refusedWrite d ha)
  · exact exec_write_ok hi hHost hp (rxto_ne hc hf ha).1 (writeEffect_rxto hc hf ha d)
  · have hFifo : a ≠ s.cfg.regFifo := fun e => hd (e ▸ regFifo_mem_decoded s.cfg)
    exact exec_write_refused hi hHost hp hFifo (writeEffect_rxto_familyS hf ha hd hA hB d)

end Sys2Proof.Machine
end

section
/-! SUPPORT. DELAY (R127). -/

namespace Sys2Proof.Machine

theorem exec_delay (s : State) :
    exec .delay s = ifAdmitted [.host] s (.next { s with port := { s.port with settlePending := false } }) :=
  rfl

/-- Settles O12: a Host that no failed INIT stops is admitted, and the admitted DELAY asks nothing more of the state. -/
theorem delayEndsTheSettleWindow : Obligations.DelayEndsTheSettleWindow := by
  intro s hHost
  rw [exec_delay, admit_host hHost [.host] (by simp)]

end Sys2Proof.Machine
end

section
/-! SUPPORT. SETMODE (R140 to R147): the mode it leaves and the settle window it opens. -/

namespace Sys2Proof.Machine

/-- The byte SETMODE writes names the target mode, also under the state the gap left. -/
theorem modeOf_setmodeByte_atGap {s : State} (hc : s.cfg.wf = true) (a : Addr) (v : Byte) (m : Mode) :
    (atGap a s).cfg.modeOf (putField v s.cfg.modeMask (s.cfg.modeBits m)) = some m := by
  rw [(atGap_kept a s).cfg, modeOf_putField hc]

/-- The other agents' steps in the gap leave the mode alone. -/
theorem atGap_mode (a : Addr) (s : State) : (atGap a s).mode? = s.mode? :=
  State.mode?_congr (atGap_kept a s).cfg (atGap_kept a s).regs

/-- R141, R147: SETMODE is the mode write of `writeOpmode` on the state the gap left, and neither the gap nor the frame
record touches mode or port. -/
theorem exec_setmode_mode_port {s : State} (m : Mode) (hc : s.cfg.wf = true) (hm : Memory.wf s.chip.regs = true)
    (h : HostMay s) (hp : PortReady s) :
    ∃ t : State, exec (setmodeInstr m) s = .next t ∧ t.mode? = some m ∧
      t.port = { s.port with settlePending := decide (s.mode? = some .sleep ∧ m ≠ .sleep) } := by
  have k := atGap_kept s.cfg.regOpmode s
  have hd := modeOf_setmodeByte_atGap hc s.cfg.regOpmode (readValue s.cfg.regOpmode s) m
  have hmg : Memory.wf (atGap s.cfg.regOpmode s).chip.regs = true := by rw [k.regs]; exact hm
  refine ⟨_, exec_setmode m hc h hp, (writeOpmode_mode hmg _).trans hd, ?_⟩
  exact (writeOpmode_port hmg (k.ready hp) hd).trans (by rw [k.port, atGap_mode])

/-- Settles O25: SETMODE ends in the target mode from any source, and its settle bit asks only whether the source
is Sleep and the target is not. -/
theorem everyModePairIsLegal : Obligations.EveryModePairIsLegal := by
  intro s source target hc hm hHost hp hSource
  obtain ⟨t, hExec, hMode, hPort⟩ := exec_setmode_mode_port target hc hm hHost hp
  have hLeaves : decide (s.mode? = some .sleep ∧ target ≠ .sleep) = (source == .sleep && target != .sleep) := by
    rw [hSource, Bool.eq_iff_iff]
    simp
  exact ⟨t, hExec, hMode, by rw [hPort, hLeaves]⟩

end Sys2Proof.Machine
end

section
/-! SUPPORT. The flag clears of the latch (R162, R164 to R167): the table rows, the flag views after a clear, and the
two families. -/

namespace Sys2Proof.Machine

/-! ## Family S only, family H only (R107) -/

theorem ofFamily_same {s : State} {f : Family} (h : s.cfg.family = f) (k : Out State) : ofFamily f s k = k :=
  if_pos h

theorem ofFamily_other {s : State} {f : Family} (h : s.cfg.family ≠ f) (k : Out State) :
    ofFamily f s k = .refused .familyMismatch :=
  if_neg h

/-! ## The table rows under a Host that may act -/

theorem exec_clear_host {s : State} (h : HostMay s) : exec .clear s = ofFamily .h s (.next (clearShadows s)) :=
  admit_host h [.host] (by simp)

theorem exec_clrInstr_host {s : State} (h : HostMay s) (e : Event) :
    exec (clrInstr e) s = ofFamily .s s (.next (clearBit e s)) := by
  have hRow : exec (clrInstr e) s = ifAdmitted [.host] s (ofFamily .s s (.next (clearBit e s))) := by cases e <;> rfl
  rw [hRow, admit_host h [.host] (by simp)]

theorem exec_clrfInstr_host {s : State} (h : HostMay s) (e : Event) :
    exec (clrfInstr e) s = .next (clearFlag e s) := by
  have hRow : exec (clrfInstr e) s = ifAdmitted [.host] s (.next (clearFlag e s)) := by cases e <;> rfl
  rw [hRow, admit_host h [.host] (by simp)]

/-! ## The flag views after a clear (R35); `flagView_clearShadows` says it of CLEAR -/

theorem flagView_familyS {s : State} (hf : s.cfg.family = .s) (e : Event) : flagView s e = s.latch.bits.get e := by
  simp only [flagView, hf]

theorem clearBit_get (s : State) (e e' : Event) :
    (clearBit e s).latch.bits.get e' = (s.latch.bits.get e' && e' != e) := by
  have hSet : (clearBit e s).latch.bits.get e' = if e' = e then false else s.latch.bits.get e' :=
    EventBits.get_set s.latch.bits e e' false
  rw [hSet]
  by_cases he : e' = e <;> simp [he]

theorem flagView_clearBit {s : State} (hf : s.cfg.family = .s) (e e' : Event) :
    flagView (clearBit e s) e' = (flagView s e' && e' != e) := by
  rw [flagView_familyS hf, flagView_familyS (s := clearBit e s) hf, clearBit_get]

theorem clearFlag_familyH {s : State} (hf : s.cfg.family = .h) (e : Event) : clearFlag e s = clearShadows s := by
  simp only [clearFlag, hf]

theorem clearFlag_familyS {s : State} (hf : s.cfg.family = .s) (e : Event) : clearFlag e s = clearBit e s := by
  simp only [clearFlag, hf]

/-! ## CLEAR, CLRPR, CLRPS, CLRTO and CLRF -/

/-- Settles O30: under each family one of the two clears is refused, and the other is a single latch update. -/
theorem latchClearsByFamily : Obligations.LatchClearsByFamily := by
  intro s hHost
  refine ⟨fun hf => ?_, fun hf => ?_⟩
  · have hNotS : s.cfg.family ≠ .s := by simp [hf]
    have hClear : exec .clear s = .next (clearShadows s) := by rw [exec_clear_host hHost, ofFamily_same hf]
    refine ⟨hClear, fun t ht e => ?_, fun e => ?_⟩
    · obtain rfl : clearShadows s = t := Host.Outcome.next.inj (hClear.symm.trans ht)
      exact flagView_clearShadows hf e
    · rw [exec_clrInstr_host hHost, ofFamily_other hNotS]
  · have hNotH : s.cfg.family ≠ .h := by simp [hf]
    refine ⟨by rw [exec_clear_host hHost, ofFamily_other hNotH], fun e => ?_⟩
    have hClr : exec (clrInstr e) s = .next (clearBit e s) := by rw [exec_clrInstr_host hHost, ofFamily_same hf]
    exact ⟨clearBit e s, hClr, flagView_clearBit hf e, rfl⟩

/-- Settles O31: CLRF is the clear of both shadow bytes under family H and the clear of one boolean under family S. -/
theorem clrfClearsByFamily : Obligations.ClrfClearsByFamily := by
  intro s e hHost
  refine ⟨clearFlag e s, exec_clrfInstr_host hHost e, ?_⟩
  cases hf : s.cfg.family
  case h =>
    rw [clearFlag_familyH hf]
    exact ⟨rfl, flagView_clearShadows hf e, nofun, fun _ => ⟨rfl, rfl, flagView_clearShadows hf⟩⟩
  case s =>
    rw [clearFlag_familyS hf]
    refine ⟨rfl, ?_, fun _ e' he => ?_, nofun⟩
    · simp [flagView_clearBit hf]
    · simp [flagView_clearBit hf, he]

end Sys2Proof.Machine
end

section
/-! SUPPORT. PWRFULL (R197): the power write, settled and in the settle window. -/

namespace Sys2Proof.Machine

theorem writePower_ready {s : State} (hp : PortReady s) (ag : Agent) (x : Int) :
    writePower ag x s =
      .done ()
        ((({ s with chip := { s.chip with outputPower := x } } : State).drew 1).sentFrame
          [addrByte true s.cfg.regPower, s.free8] []) :=
  bracket_ready hp _ _ _

/-- The table row of PWRFULL under a Host that may act. -/
theorem exec_pwrfull_host {s : State} (h : HostMay s) :
    exec .pwrfull s = (writePower .host s.cfg.pFallback s).out := by
  have hRow : exec .pwrfull s = ifAdmitted [.host] s (writePower s.env.agent s.cfg.pFallback s).out := rfl
  rw [hRow, admit_host h [.host] (by simp), h.1]

/-- Settles O38: PWRFULL is one power write of the Host, whose data byte is the draw; in the settle window that
transaction faults. -/
theorem pwrfullRestoresTheFallback : Obligations.PwrfullRestoresTheFallback := by
  intro s hHost hClosed
  rw [exec_pwrfull_host hHost]
  refine ⟨fun hSettled => ⟨s.free8, ?_⟩, fun hSettling => ?_⟩
  · have hReady : PortReady s := ⟨hClosed, hSettled⟩
    rw [writePower_ready hReady, Tx.out]
  · rw [writePower_unsettled hClosed hSettling, Tx.out]

end Sys2Proof.Machine
end

section
/-! SUPPORT. The two interfaces: command words and frames decode to what they encode (R90 to R93, R100 to R104). -/

namespace Sys2Proof

/-! ## Command words (Format C) -/

theorem decodeCommand_xfer (b : Byte) : decodeCommand 0x03#8 b = .ok (.xfer b) := by
  simp [decodeCommand]

/-- A command word that decodes is the word of its instruction, which has no operand to be ill-formed. -/
theorem encode_of_decodeCommand (c : Cfg) {o p : Byte} {i : Instr} (h : decodeCommand o p = .ok i) :
    i.wf c = true ∧ encode c i = (.command, [o, p]) := by
  unfold decodeCommand at h
  split at h
  all_goals simp only [reduceCtorEq, Except.ok.injEq] at h
  all_goals
    subst h
    refine ⟨rfl, ?_⟩
    simp only [encode, Prod.mk.injEq, List.cons.injEq, and_true, true_and, ← BitVec.toNat_inj]
    simp only [*]
    simp

theorem decodeCommand_error {o p : Byte} {r : Reject} (h : decodeCommand o p = .error r) : r = .reservedCommand := by
  unfold decodeCommand at h
  split at h <;> simp_all

/-! ## Register frames (Format B) -/

theorem rowAddrs_contains_false {a : Addr} (h : rowAddrs.contains a = false) : ∀ b ∈ rowAddrs, a.toNat ≠ b.toNat := by
  intro b hb e
  rw [BitVec.eq_of_toNat_eq e, List.contains_iff_mem.2 hb] at h
  exact absurd h (by simp)

theorem readAt_generic {a : Addr} (h : rowAddrs.contains a = false) (d : Byte) : readAt a d = .rdreg a d := by
  have hne := rowAddrs_contains_false h
  simp only [rowAddrs, List.forall_mem_cons] at hne
  unfold readAt
  split <;> simp_all

theorem writeAt_generic {a : Addr} (h : rowAddrs.contains a = false) (d : Byte) : writeAt a d = .wrreg a d := by
  have hne := rowAddrs_contains_false h
  simp only [rowAddrs, List.forall_mem_cons] at hne
  unfold writeAt
  split <;> simp_all

theorem encode_readAt {c : Cfg} {a : Addr} (ha : a ≠ c.regFifo) (d : Byte) :
    (readAt a d).wf c = true ∧ encode c (readAt a d) = (.bus, [addrByte false a, d]) := by
  by_cases h : rowAddrs.contains a = true
  · simp only [rowAddrs, List.contains_iff_mem, List.mem_cons, List.not_mem_nil, or_false] at h
    rcases h with rfl | rfl | rfl | rfl | rfl | rfl | rfl | rfl | rfl | rfl
    all_goals exact ⟨decide_eq_true ha, rfl⟩
  · rw [Bool.not_eq_true] at h
    rw [readAt_generic h]
    exact ⟨by simp only [Instr.wf, h, decide_eq_true ha, Bool.not_false, Bool.and_self], rfl⟩

theorem encode_writeAt {c : Cfg} {a : Addr} (ha : a ≠ c.regFifo) (d : Byte) :
    (writeAt a d).wf c = true ∧ encode c (writeAt a d) = (.bus, [addrByte true a, d]) := by
  by_cases h : rowAddrs.contains a = true
  · simp only [rowAddrs, List.contains_iff_mem, List.mem_cons, List.not_mem_nil, or_false] at h
    rcases h with rfl | rfl | rfl | rfl | rfl | rfl | rfl | rfl | rfl | rfl
    all_goals exact ⟨decide_eq_true ha, rfl⟩
  · rw [Bool.not_eq_true] at h
    rw [writeAt_generic h]
    exact ⟨by simp only [Instr.wf, h, decide_eq_true ha, Bool.not_false, Bool.and_self], rfl⟩

/-- The decoder of a two-byte frame away from `REG_FIFO`, put in terms of the address byte's two fields. -/
theorem decode_registerFrame {c : Cfg} {a : Addr} (ha : a ≠ c.regFifo) (w : Bool) (d : Byte) :
    decode c .bus [addrByte w a, d] = .ok (if w then writeAt a d else readAt a d) := by
  simp [decode, decodeFrame, addrOf_addrByte, writeBit_addrByte, ha]

/-! ## FIFO frames (Format F) -/

theorem decode_fifoFrame (c : Cfg) (w : Bool) (d : Byte) (ds : List Byte) :
    decode c .bus (addrByte w c.regFifo :: d :: ds) = .ok (if w then .fifowr (d :: ds) else .fiford (d :: ds)) := by
  simp [decode, decodeFrame, addrOf_addrByte, writeBit_addrByte]

/-- A bus frame that decodes is the frame of its instruction. -/
theorem encode_of_decodeFrame {c : Cfg} {bytes : List Byte} {i : Instr} (h : decodeFrame c bytes = .ok i) :
    i.wf c = true ∧ encode c i = (.bus, bytes) := by
  match bytes with
  | [] | [_] => simp [decodeFrame] at h
  | ab :: d :: ds =>
    obtain ⟨w, a, rfl⟩ : ∃ w a, ab = addrByte w a := ⟨writeBit ab, addrOf ab, (addrByte_writeBit_addrOf ab).symm⟩
    simp only [decodeFrame, addrOf_addrByte, writeBit_addrByte] at h
    by_cases ha : a = c.regFifo
    · subst ha
      rw [if_pos rfl] at h
      cases w <;> (cases h; exact ⟨rfl, rfl⟩)
    · rw [if_neg ha] at h
      cases ds with
      | cons d' ds => simp at h
      | nil =>
        cases w
        · cases h; exact encode_readAt ha d
        · cases h; exact encode_writeAt ha d

/-! ## Both directions -/

/-- Settles O1, by the format of the row: command words are fixed, register frames decode by `readAt` and `writeAt`,
bursts by the address of `REG_FIFO`. -/
theorem decodeOfEncodeIsTheInstruction : Obligations.DecodeOfEncodeIsTheInstruction := by
  intro c i hi
  cases i
  case xfer b => exact decodeCommand_xfer b
  case rdreg a d =>
    simp only [Instr.wf, Bool.and_eq_true, decide_eq_true_eq, Bool.not_eq_true'] at hi
    exact (decode_registerFrame hi.1 false d).trans (congrArg _ (readAt_generic hi.2 d))
  case wrreg a d =>
    simp only [Instr.wf, Bool.and_eq_true, decide_eq_true_eq, Bool.not_eq_true'] at hi
    exact (decode_registerFrame hi.1 true d).trans (congrArg _ (writeAt_generic hi.2 d))
  case fifowr bytes =>
    cases bytes with
    | nil => simp [Instr.wf] at hi
    | cons d ds => exact decode_fifoFrame c true d ds
  case fiford fill =>
    cases fill with
    | nil => simp [Instr.wf] at hi
    | cons d ds => exact decode_fifoFrame c false d ds
  case rdregOpmode d | rdregVersion d | rdregPower d | rdregRssi d | rdregPinmapA d | rdregPinmapB d | rdregIrq1 d
      | rdregIrq2 d | rdregRxto1 d | rdregRxto2 d =>
    exact decode_registerFrame (of_decide_eq_true hi) false d
  case wrregOpmode d | wrregVersion d | wrregPower d | wrregRssi d | wrregPinmapA d | wrregPinmapB d | wrregIrq1 d
      | wrregIrq2 d | wrregRxto1 d | wrregRxto2 d =>
    exact decode_registerFrame (of_decide_eq_true hi) true d
  all_goals rfl

/-- Settles O2, by the interface: each of the two decoders gives back the bytes it read. -/
theorem encodeOfDecodeIsTheBytes : Obligations.EncodeOfDecodeIsTheBytes := by
  intro c port bytes i h
  match port, bytes with
  | .bus, _ => exact encode_of_decodeFrame h
  | .command, [_, _] => exact encode_of_decodeCommand c h
  | .command, [] | .command, [_] | .command, _ :: _ :: _ :: _ => simp [decode] at h

/-- Settles O3: eight closed evaluations of the decoder. -/
theorem writtenOutWordsDecode : Obligations.WrittenOutWordsDecode := by
  unfold Obligations.WrittenOutWordsDecode
  refine ⟨?_, ?_, ?_, ?_, ?_, ?_, ?_, ?_⟩ <;> rfl

end Sys2Proof
end

section
/-! SUPPORT. One entry of the schedule: what is refused, what runs, and the step of a fetched word (R90, R104). -/

namespace Sys2Proof.Machine

/-! ## An operation handed over -/

/-- The agent of the operation may act, and a Host stands between operations: its bytes are decoded and run. -/
theorem step_of_op {s : State} {ag : Agent} {port : Port} {bytes : List Byte} {gaps : List (List EnvStep)}
    {rest : List Input} (hi : s.env.input = .op ag port bytes gaps :: rest) (ha : mayAct ag s = true)
    (hp : ag = .host → s.caller.hostPos = []) :
    step s = runBytes port bytes (handOver ag gaps (dropInput s)) := by
  have hNot : ¬ (ag = .host ∧ s.caller.hostPos ≠ []) := fun h => h.2 (hp h.1)
  simp only [step, turn, hi, opTurn, ha, Bool.true_eq_false, if_false, if_neg hNot]

theorem runBytes_ok {s : State} {port : Port} {bytes : List Byte} {i : Instr} (h : decode s.cfg port bytes = .ok i) :
    runBytes port bytes s = exec i s := by
  simp only [runBytes, h]

theorem runBytes_error {s : State} {port : Port} {bytes : List Byte} {r : Reject}
    (h : decode s.cfg port bytes = .error r) : runBytes port bytes s = .refused (rejectRefusal r) := by
  simp only [runBytes, h]

theorem dropInput_cons {s : State} {x : Input} {rest : List Input} (h : s.env.input = x :: rest) :
    dropInput s = { s with env := { s.env with input := rest } } := by
  simp only [dropInput, h, List.tail_cons]

/-- Settles O5. -/
theorem stepRunsTheDecodedInstruction : Obligations.StepRunsTheDecodedInstruction := by
  intro s ag port bytes gaps rest i hi ha hp hd
  rw [step_of_op hi ha hp, runBytes_ok (i := i) (by simpa using hd), dropInput_cons hi]
  rfl

/-! ## The words of the opcode map (R100) -/

/-- The word of every command instruction but XFER is one of the 29 of the opcode map. -/
theorem commandWord_mem {c : Cfg} {i : Instr} {o p : Byte} (h : encode c i = (.command, [o, p])) (ho : o ≠ 0x03#8) :
    (o ++ p : BitVec 16) ∈
      [0x0100#16, 0x0200#16, 0x0400#16, 0x0500#16, 0x1000#16, 0x1001#16, 0x1002#16, 0x1003#16, 0x1004#16, 0x2000#16,
        0x2100#16, 0x2200#16, 0x2300#16, 0x2400#16, 0x2401#16, 0x2402#16, 0x2500#16, 0x2501#16, 0x2502#16, 0x2600#16,
        0x2601#16, 0x2602#16, 0x2700#16, 0x2701#16, 0x2702#16, 0x3000#16, 0x3001#16, 0x3100#16, 0x3200#16] := by
  cases i
  all_goals simp only [encode, Prod.mk.injEq, reduceCtorEq, false_and, List.cons.injEq, and_true, true_and] at h
  case xfer b => exact absurd h.1.symm ho
  all_goals
    obtain ⟨rfl, rfl⟩ := h
    decide

/-- Settles O4: a word that decoded would be the encoding of an instruction, and those are listed; frames are refused by
their length. -/
theorem reservedEncodingsAreRefused : Obligations.ReservedEncodingsAreRefused := by
  intro s ag gaps rest ha hp
  have refused {port : Port} {bytes : List Byte} {r : Reject} (hi : s.env.input = .op ag port bytes gaps :: rest)
      (hd : decode s.cfg port bytes = .error r) : step s = .refused (rejectRefusal r) := by
    rw [step_of_op hi ha hp, runBytes_error (r := r) (by simpa using hd)]
  refine ⟨fun o p hi ho hw => ?_, fun bytes hi => ⟨fun hb => ?_, fun b hb => ?_, fun ab d d' ds hb hf => ?_⟩⟩
  · cases hd : decodeCommand o p with
    | ok i => exact absurd (commandWord_mem (encode_of_decodeCommand s.cfg hd).2 ho) hw
    | error r =>
      obtain rfl := decodeCommand_error hd
      exact refused hi hd
  · exact refused hi (r := .emptyTransaction) (by rw [hb]; rfl)
  · exact refused hi (r := .shortTransaction) (by rw [hb]; rfl)
  · refine refused hi (r := .longTransaction) ?_
    simp [hb, decode, decodeFrame, hf]

/-! ## The step of a fetched word (log 13) -/

theorem mayAct_readyFor (ag : Agent) (s : State) : mayAct ag (readyFor ag s) = true := by
  cases ag <;> rfl

theorem readyFor_cfg (ag : Agent) (s : State) : (readyFor ag s).cfg = s.cfg := by
  cases ag <;> rfl

theorem readyFor_hostPos {ag : Agent} (h : ag = .host) (s : State) : (readyFor ag s).caller.hostPos = [] := by
  rw [h]
  rfl

theorem mayAct_schedule (ag : Agent) (port : Port) (bytes : List Byte) (s : State) :
    mayAct ag (schedule ag port bytes s) = mayAct ag s := by
  cases ag <;> rfl

theorem issuerOf_of_decode {c : Cfg} {port : Port} {bytes : List Byte} {i : Instr} (h : decode c port bytes = .ok i) :
    issuerOf c port bytes = i.issuer := by
  simp [issuerOf, decoded?, h]

/-- Settles O6: `withFetchWord` puts the word's operation first and readies its issuer, so that the entry is run. -/
theorem fetchWordRunsItsInstruction : Obligations.FetchWordRunsItsInstruction := by
  intro s nbits w i hd
  have hFetch : s.withFetchWord nbits w =
      schedule i.issuer (tableBytes nbits w).1 (tableBytes nbits w).2 (readyFor i.issuer s) := by
    simp only [State.withFetchWord, issuerOf_of_decode hd]
  rw [hFetch, step_of_op rfl ((mayAct_schedule _ _ _ _).trans (mayAct_readyFor _ _)) (readyFor_hostPos · s),
    runBytes_ok (i := i) (by simpa [readyFor_cfg] using hd)]
  rfl

/-! ## A Host turn -/

theorem hostTurn_cons {s : State} {f : Frame} {fs : List Frame} (hm : hostMayAct s = true)
    (hp : s.caller.hostPos = f :: fs) (gaps : List (List EnvStep)) :
    hostTurn gaps s = stmt f (handOver .host gaps s) := by
  simp only [hostTurn, hm, if_true, hp]
  rfl

/-- Settles O7. -/
theorem hostTurnExecutesTheNextStatement : Obligations.HostTurnExecutesTheNextStatement := by
  intro s f fs gaps rest hi hm hp
  have hStep : step s = hostTurn gaps (dropInput s) := by simp only [step, turn, hi]
  rw [hStep, hostTurn_cons (s := dropInput s) hm hp, dropInput_cons hi]
  rfl

end Sys2Proof.Machine
end

section
/-! SUPPORT. PWRON (R300): the register file it leaves, and the reset state (R44). -/

namespace Sys2Proof.Machine

/-- R300: whatever PWRON draws for the other registers, the mode register holds `RESET_MODE`, and the file stays canonical. -/
theorem powerOnRegs_regs {s : State} (hc : s.cfg.wf = true) (hm : Memory.wf s.chip.regs = true) :
    (powerOnRegs s).mode? = some s.cfg.resetMode ∧ Memory.wf (powerOnRegs s).chip.regs = true := by
  have hA := (pinmap_ne hc (.inl rfl)).2.1.symm
  have hB := (pinmap_ne hc (.inr rfl)).2.1.symm
  unfold powerOnRegs
  cases hf : s.cfg.family
  case h =>
    have h1 := (rxto_ne hc hf (.inl rfl)).2.1.symm
    have h2 := (rxto_ne hc hf (.inr rfl)).2.1.symm
    refine ⟨?_, State.setReg_wf (State.setReg_wf (State.setReg_wf (State.setReg_wf (State.setReg_wf hm _ _) _ _) _ _) _ _) _ _⟩
    simp only [State.mode?, State.setReg_cfg]
    rw [State.reg_setReg_other _ _ h2, State.reg_setReg_other _ _ h1, State.reg_setReg_other _ _ hB,
      State.reg_setReg_other _ _ hA, State.reg_setReg_same hm, modeOf_putField hc]
  case s =>
    refine ⟨?_, State.setReg_wf (State.setReg_wf (State.setReg_wf hm _ _) _ _) _ _⟩
    simp only [State.mode?, State.setReg_cfg]
    rw [State.reg_setReg_other _ _ hB, State.reg_setReg_other _ _ hA, State.reg_setReg_same hm, modeOf_putField hc]

theorem powerOnRegs_cfg (s : State) : (powerOnRegs s).cfg = s.cfg := by
  unfold powerOnRegs
  dsimp only
  split <;> rfl

theorem powerOnRegs_latch (s : State) : (powerOnRegs s).latch = s.latch := by
  unfold powerOnRegs
  dsimp only
  split <;> rfl

theorem powerOnRegs_caller (s : State) : (powerOnRegs s).caller = s.caller := by
  unfold powerOnRegs
  dsimp only
  split <;> rfl

theorem powerOnRegs_env (s : State) : (powerOnRegs s).env = s.env := by
  unfold powerOnRegs
  dsimp only
  split <;> rfl

@[simp] theorem powerOn_cfg (s : State) : (powerOn s).cfg = s.cfg := powerOnRegs_cfg s
@[simp] theorem powerOn_latch (s : State) : (powerOn s).latch = s.latch := powerOnRegs_latch s
@[simp] theorem powerOn_caller (s : State) : (powerOn s).caller = s.caller := powerOnRegs_caller s
@[simp] theorem powerOn_pins (s : State) : (powerOn s).pins = ⟨false, false, false, false⟩ := rfl
@[simp] theorem powerOn_hw (s : State) : (powerOn s).chip.hw = ⟨false, false, false⟩ := rfl

theorem powerOn_env (s : State) : (powerOn s).env = { s.env with draws := s.env.draws + 8 } := by
  rw [← powerOnRegs_env s]
  rfl

theorem powerOn_mode {s : State} (hc : s.cfg.wf = true) (hm : Memory.wf s.chip.regs = true) :
    (powerOn s).mode? = some s.cfg.resetMode :=
  (powerOnRegs_regs hc hm).1

theorem powerOn_regsWf {s : State} (hc : s.cfg.wf = true) (hm : Memory.wf s.chip.regs = true) :
    Memory.wf (powerOn s).chip.regs = true :=
  (powerOnRegs_regs hc hm).2

theorem powerOn_power {s : State} (hc : s.cfg.wf = true) :
    s.cfg.pMin ≤ (powerOn s).chip.outputPower ∧ (powerOn s).chip.outputPower ≤ s.cfg.pMax :=
  drawnPower_range (cfgFacts hc).powerRange _

/-- Settles O13: the admitted PWRON is `powerOn`, whose mode is the one stored and whose power is drawn in range. -/
theorem pwronSetsTheResetState : Obligations.PwronSetsTheResetState := by
  intro s hc hm hHost
  obtain ⟨hLow, hHigh⟩ := powerOn_power hc
  refine ⟨powerOn s, admit_host hHost [.host] (by simp), powerOn_mode hc hm, rfl, rfl, hLow, hHigh, rfl, rfl, rfl, ?_⟩
  exact ⟨powerOn_cfg s, powerOn_latch s, powerOn_caller s, by rw [powerOn_env]⟩

/-- Settles O42: nine closed values. -/
theorem resetStateIsAsListed : Obligations.ResetStateIsAsListed := by
  unfold Obligations.ResetStateIsAsListed
  refine ⟨rfl, ?_, rfl, rfl, rfl, rfl, rfl, rfl, rfl⟩
  decide

/-- Settles O43: the reset state is closed, so each conjunct is a closed fact. -/
theorem resetMeetsTheInvariant : Obligations.ResetMeetsTheInvariant := by
  constructor
  · constructor <;> decide
  · intro h
    exact absurd h (by decide)

end Sys2Proof.Machine
end

section
/-! SUPPORT. What every operation keeps: the configuration, the recorded faults, the invariant of the machine and, under
family S, the edges. `Kept` says it of two states, and is reflexive and transitive; each operation has one lemma. -/

namespace Sys2Proof.Machine

/-! ## The invariant, by what it speaks of -/

/-- The part of the invariant that does not speak of the pins. -/
structure BlockInv (s : State) : Prop where
  cfgWf : s.cfg.wf = true
  regsWf : Memory.wf s.chip.regs = true
  modeDefined : s.mode?.isSome = true
  powerLow : s.cfg.pMin ≤ s.chip.outputPower
  powerHigh : s.chip.outputPower ≤ s.cfg.pMax
  faultsOrdered : s.caller.faults.Pairwise fun f g => f.key < g.key
  stoppedFaulted : s.caller.hostStopped = true ∨ s.caller.isrStopped = true → s.caller.faults ≠ []
  slots : s.port.got.length = s.port.sent.length
  closed : s.port.busSelected = false → s.port.sent = []

theorem inv_iff (s : State) : Inv s ↔ (BlockInv s ∧ PinsCurrent s) ∧ s.pins.inIsr = false := by
  constructor
  · intro ⟨hCfg, hRegs, hMode, h0, h1, hIsr, hLow, hHigh, hOrd, hStop, hSlots, hClosed⟩
    exact ⟨⟨⟨hCfg, hRegs, hMode, hLow, hHigh, hOrd, hStop, hSlots, hClosed⟩, h0, h1⟩, hIsr⟩
  · intro ⟨⟨⟨hCfg, hRegs, hMode, hLow, hHigh, hOrd, hStop, hSlots, hClosed⟩, h0, h1⟩, hIsr⟩
    exact ⟨hCfg, hRegs, hMode, h0, h1, hIsr, hLow, hHigh, hOrd, hStop, hSlots, hClosed⟩

/-- What every step from `s` to `t` keeps. -/
structure Kept (s t : State) : Prop where
  cfg : t.cfg = s.cfg
  faults : ∀ f ∈ s.caller.faults, f ∈ t.caller.faults
  inIsr : s.pins.inIsr = false → t.pins.inIsr = false
  inv : BlockInv s ∧ PinsCurrent s → BlockInv t ∧ PinsCurrent t
  edge : s.cfg.wf = true → EdgePending s → EdgePending t

theorem Kept.refl (s : State) : Kept s s := ⟨rfl, fun _ h => h, id, id, fun _ => id⟩

theorem Kept.trans {s t u : State} (h : Kept s t) (k : Kept t u) : Kept s u :=
  ⟨k.cfg.trans h.cfg, fun f hf => k.faults f (h.faults f hf), k.inIsr ∘ h.inIsr, k.inv ∘ h.inv,
    fun hc he => k.edge (h.cfg ▸ hc) (h.edge hc he)⟩

theorem Kept.invariant {s t : State} (k : Kept s t) (h : Inv s) : Inv t := by
  obtain ⟨hInv, hIsr⟩ := (inv_iff s).1 h
  exact (inv_iff t).2 ⟨k.inv hInv, k.inIsr hIsr⟩

theorem Kept.ite {s t u : State} {p : Prop} [Decidable p] (h : Kept s t) (k : Kept s u) :
    Kept s (if p then t else u) := by
  split
  · exact h
  · exact k

/-! ## Operations that leave the stored registers, the power and the bracket alone -/

/-- `t` has the configuration, the stored registers, the power, the bracket and the fault record of `s`. -/
structure SameBlock (s t : State) : Prop where
  cfg : t.cfg = s.cfg
  regs : t.chip.regs = s.chip.regs
  power : t.chip.outputPower = s.chip.outputPower
  busSelected : t.port.busSelected = s.port.busSelected
  sent : t.port.sent = s.port.sent
  got : t.port.got = s.port.got
  faults : t.caller.faults = s.caller.faults
  hostStopped : t.caller.hostStopped = s.caller.hostStopped
  isrStopped : t.caller.isrStopped = s.caller.isrStopped

theorem BlockInv.congr {s t : State} (e : SameBlock s t) (h : BlockInv s) : BlockInv t where
  cfgWf := by rw [e.cfg]; exact h.cfgWf
  regsWf := by rw [e.regs]; exact h.regsWf
  modeDefined := by rw [State.mode?_congr e.cfg e.regs]; exact h.modeDefined
  powerLow := by rw [e.cfg, e.power]; exact h.powerLow
  powerHigh := by rw [e.cfg, e.power]; exact h.powerHigh
  faultsOrdered := by rw [e.faults]; exact h.faultsOrdered
  stoppedFaulted := by rw [e.faults, e.hostStopped, e.isrStopped]; exact h.stoppedFaulted
  slots := by rw [e.got, e.sent]; exact h.slots
  closed := by rw [e.busSelected, e.sent]; exact h.closed

theorem EdgePending.congr {s t : State} (hc : t.cfg = s.cfg) (hp : t.pins = s.pins)
    (hs : s.caller.isrStopped = true → t.caller.isrStopped = true) (h : EdgePending s) : EdgePending t := by
  intro hf hl
  rw [hc] at hf
  rw [hp] at hl ⊢
  exact (h hf hl).imp_right hs

/-- Flags and pins are untouched as well. -/
theorem Kept.same {s t : State} (e : SameBlock s t) (hw : t.chip.hw = s.chip.hw) (hp : t.pins = s.pins) : Kept s t where
  cfg := e.cfg
  faults := by rw [e.faults]; exact fun _ h => h
  inIsr := by rw [hp]; exact id
  inv := fun ⟨hb, h0, h1⟩ => by
    refine ⟨hb.congr e, ?_, ?_⟩
    · rw [hp, State.pinFn0_congr e.cfg e.regs hw]; exact h0
    · rw [hp, State.pinFn1_congr e.cfg e.regs hw]; exact h1
  edge := fun _ => EdgePending.congr e.cfg hp (by rw [e.isrStopped]; exact id)

/-- UpdatePins loses no edge: a level that rose has raised a request, one that was high had one (R256). -/
theorem edgePending_updatePins {s u : State} (hc : u.cfg = s.cfg) (hp : u.pins = s.pins)
    (hs : u.caller.isrStopped = s.caller.isrStopped) (h : EdgePending s) : EdgePending u.updatePins := by
  intro hf hl
  have hs' := h (by rw [← hc]; exact hf)
  simp only [State.updatePins, hp, hs] at hl ⊢
  rcases hl with hHigh | hHigh
  · cases hOld : s.pins.level0
    · simp [hHigh]
    · rcases hs' (.inl hOld) with h | h <;> simp [h]
  · cases hOld : s.pins.level1
    · simp [hHigh]
    · rcases hs' (.inr hOld) with h | h <;> simp [h]

/-- Whatever happens to the flags, once the pins are recomputed. -/
theorem Kept.updated {s u : State} (hc : u.cfg = s.cfg) (hf : u.caller = s.caller) (hp : u.pins = s.pins)
    (hb : BlockInv s → BlockInv u) : Kept s u.updatePins where
  cfg := hc
  faults := by simp [hf]
  inIsr := by simp [hp]
  inv := fun ⟨h, _⟩ => ⟨(hb h).congr (by constructor <;> rfl), rfl, rfl⟩
  edge := fun _ => edgePending_updatePins hc hp (by rw [hf])

theorem Kept.updatePins (s : State) : Kept s s.updatePins := .updated rfl rfl rfl id

theorem Kept.clearHw (s : State) (e : Event) : Kept s (s.clearHw e) :=
  .updated rfl rfl rfl (BlockInv.congr (by constructor <;> rfl))

theorem Kept.statusEffect (s : State) (k : StatusReg) : Kept s (statusEffect k s) := by
  unfold Sys2Proof.Machine.statusEffect
  split
  · exact .refl s
  · exact .updated rfl rfl rfl (BlockInv.congr (by constructor <;> rfl))

theorem Kept.fifo (s : State) (l : List Byte) : Kept s { s with chip := { s.chip with fifo := l } } :=
  .same (by constructor <;> rfl) rfl rfl

theorem Kept.fifoPop (s : State) (n : Nat) : Kept s (fifoPop n s) := by
  unfold Sys2Proof.Machine.fifoPop
  exact .ite ((Kept.fifo s _).trans (.clearHw _ _)) (.fifo s _)

theorem Kept.readEffect (s : State) (a : Addr) : Kept s (readEffect a s) :=
  .ite (.fifoPop s 1) (.ite (.statusEffect s .one) (.ite (.statusEffect s .two) (.refl s)))

theorem Kept.modeClears (s : State) (old : Option Mode) : Kept s (modeClears old s) := by
  have hPs := Kept.ite (p := old = some .transmit ∧ s.mode? ≠ some .transmit) (.clearHw s .ps) (.refl s)
  have hTo := Kept.ite (p := old = some .receive ∧ s.mode? ≠ some .receive) (hPs.trans (.clearHw _ .tmo)) hPs
  exact .ite (.ite (hTo.trans (.clearHw _ .pr)) hTo) (.refl s)

theorem Kept.settleAfter (s : State) (old : Option Mode) : Kept s (settleAfter old s) :=
  .same (by constructor <;> simp) (by simp) (by simp)

/-- The bus record, the draw counter, the results, the latch, the schedule and the Host's position are no part of what is
kept. -/
theorem Kept.frame {s t : State} (hc : t.cfg = s.cfg) (hh : t.chip = s.chip) (hp : t.pins = s.pins) (hq : t.port = s.port)
    (hf : t.caller.faults = s.caller.faults) (hs : t.caller.hostStopped = s.caller.hostStopped)
    (hi : t.caller.isrStopped = s.caller.isrStopped) : Kept s t :=
  .same ⟨hc, by rw [hh], by rw [hh], by rw [hq], by rw [hq], by rw [hq], hf, hs, hi⟩ (by rw [hh]) hp

theorem Kept.answer (s : State) (r : Result) : Kept s (s.answer r) := by
  unfold State.answer
  split <;> exact .frame rfl rfl rfl rfl rfl rfl rfl

theorem Kept.drew (s : State) (n : Nat) : Kept s (s.drew n) := .frame rfl rfl rfl rfl rfl rfl rfl

theorem Kept.sentFrame (s : State) (x y : List Byte) : Kept s (s.sentFrame x y) := .frame rfl rfl rfl rfl rfl rfl rfl

/-! ## Faults (R10, R310) -/

theorem insertFault_ne_nil (f : Fault) (l : List Fault) : insertFault f l ≠ [] :=
  List.ne_nil_of_mem (mem_insertFault f l)

theorem mem_of_mem_insertFault {f g : Fault} {l : List Fault} (h : g ∈ insertFault f l) : g = f ∨ g ∈ l := by
  induction l with
  | nil => simpa [insertFault] using h
  | cons x l ih =>
    simp only [insertFault] at h
    split at h
    · simpa using h
    · split at h
      · exact .inr h
      · rcases List.mem_cons.1 h with rfl | h
        · simp
        · exact (ih h).imp_right (List.mem_cons_of_mem _)

theorem insertFault_ordered (f : Fault) {l : List Fault} (h : l.Pairwise fun f g => f.key < g.key) :
    (insertFault f l).Pairwise fun f g => f.key < g.key := by
  induction l with
  | nil => simp [insertFault]
  | cons x l ih =>
    obtain ⟨hx, hl⟩ := List.pairwise_cons.1 h
    simp only [insertFault]
    split
    · rename_i hlt
      refine List.pairwise_cons.2 ⟨fun g hg => ?_, h⟩
      rcases List.mem_cons.1 hg with rfl | hg
      · exact hlt
      · exact hlt.trans (hx g hg)
    · split
      · exact h
      · refine List.pairwise_cons.2 ⟨fun g hg => ?_, ih hl⟩
        rcases mem_of_mem_insertFault hg with rfl | hg
        · omega
        · exact hx g hg

theorem raise_isrStopped (ag : Agent) (f : Fault) {s : State} (h : s.caller.isrStopped = true) :
    (raise ag f s).caller.isrStopped = true := by
  cases ag with
  | isr => rfl
  | host | timer | radio => exact h

theorem Kept.raise (ag : Agent) (f : Fault) (s : State) : Kept s (raise ag f s) where
  cfg := raise_cfg ag f s
  faults := by rw [raise_faults]; exact subset_insertFault f _
  inIsr := by rw [raise_pins]; exact id
  inv := fun ⟨h, h0, h1⟩ => by
    have hFn0 := State.pinFn0_congr (raise_cfg ag f s) (congrArg Chip.regs (raise_chip ag f s)) (by rw [raise_chip])
    have hFn1 := State.pinFn1_congr (raise_cfg ag f s) (congrArg Chip.regs (raise_chip ag f s)) (by rw [raise_chip])
    refine ⟨⟨by simpa using h.cfgWf, by simpa using h.regsWf, ?_, by simpa using h.powerLow, by simpa using h.powerHigh,
      ?_, fun _ => ?_, by simpa using h.slots, by simpa using h.closed⟩, ?_, ?_⟩
    · rw [State.mode?_congr (s := s) (raise_cfg ag f s) (by simp)]; exact h.modeDefined
    · rw [raise_faults]; exact insertFault_ordered f h.faultsOrdered
    · rw [raise_faults]; exact insertFault_ne_nil f _
    · rw [raise_pins, hFn0]; exact h0
    · rw [raise_pins, hFn1]; exact h1
  edge := fun _ => EdgePending.congr (raise_cfg ag f s) (raise_pins ag f s) (raise_isrStopped ag f)

/-! ## Register writes (R124) -/

theorem setReg_mode_other {s : State} {a : Addr} (h : a ≠ s.cfg.regOpmode) (v : Byte) : (s.setReg a v).mode? = s.mode? := by
  simp only [State.mode?, State.setReg_cfg]
  rw [State.reg_setReg_other _ _ h.symm]

/-- A stored byte keeps the invariant of the block as long as the mode stays defined. -/
theorem BlockInv.setReg {s : State} (h : BlockInv s) (a : Addr) (v : Byte)
    (hm : (s.setReg a v).mode?.isSome = true) : BlockInv (s.setReg a v) :=
  ⟨h.cfgWf, State.setReg_wf h.regsWf a v, hm, h.powerLow, h.powerHigh, h.faultsOrdered, h.stoppedFaulted, h.slots, h.closed⟩

theorem Kept.setReg_pinmap {s : State} {a : Addr} (ha : a ≠ s.cfg.regOpmode) (v : Byte) :
    Kept s (s.setReg a v).updatePins :=
  .updated rfl rfl rfl fun h => h.setReg a v (by rw [setReg_mode_other ha]; exact h.modeDefined)

theorem setReg_pinFn_other {s : State} {a : Addr} (hA : a ≠ s.cfg.regPinmapA) (hB : a ≠ s.cfg.regPinmapB) (v : Byte) :
    (s.setReg a v).pinFn0 = s.pinFn0 ∧ (s.setReg a v).pinFn1 = s.pinFn1 := by
  constructor
  · simp only [State.pinFn0, State.setReg_cfg, State.reg_setReg_other _ _ hA.symm, State.setReg_hw]
  · simp only [State.pinFn1, State.setReg_cfg, State.reg_setReg_other _ _ hB.symm, State.setReg_hw]

/-- A store that leaves the mode defined, away from the pin-map registers. -/
theorem Kept.setReg {s : State} {a : Addr} {v : Byte}
    (hm : BlockInv s → (s.setReg a v).mode?.isSome = true)
    (hp : s.cfg.wf = true → a ≠ s.cfg.regPinmapA ∧ a ≠ s.cfg.regPinmapB) : Kept s (s.setReg a v) where
  cfg := rfl
  faults := fun _ h => h
  inIsr := id
  inv := fun ⟨h, h0, h1⟩ => by
    obtain ⟨hA, hB⟩ := hp h.cfgWf
    obtain ⟨e0, e1⟩ := setReg_pinFn_other hA hB v
    exact ⟨h.setReg a v (hm h), h0.trans e0.symm, h1.trans e1.symm⟩
  edge := fun _ => EdgePending.congr rfl rfl id

theorem Kept.writeOpmode {s : State} {d : Byte} (hd : (s.cfg.modeOf d).isSome = true) : Kept s (writeOpmode d s) := by
  have hStore : Kept s (s.setReg s.cfg.regOpmode d) := by
    refine .setReg (fun h => ?_) fun hc => ⟨(pinmap_ne hc (.inl rfl)).2.1.symm, (pinmap_ne hc (.inr rfl)).2.1.symm⟩
    simp only [State.mode?, State.setReg_cfg, State.reg_setReg_same h.regsWf]
    exact hd
  exact hStore.trans ((Kept.settleAfter _ _).trans ((Kept.modeClears _ _).trans (.updatePins _)))

theorem Kept.writeEffect {s t : State} {a : Addr} {d : Byte} (h : writeEffect a d s = .ok t) : Kept s t := by
  unfold Sys2Proof.Machine.writeEffect at h
  split at h
  · cases h
  split at h
  · split at h
    · cases h
    · rename_i hd
      cases h
      exact .writeOpmode (by simpa [Option.isSome_iff_ne_none] using hd)
  · rename_i hOp
    split at h
    · cases h
      exact .setReg_pinmap hOp d
    · rename_i hMap
      rw [not_or] at hMap
      split at h
      · split at h
        · cases h
        · cases h
          exact .setReg (fun hb => by rw [setReg_mode_other hOp]; exact hb.modeDefined) fun _ => hMap
      · cases h
        exact .refl s

/-- A power in the family's range (R32). -/
theorem Kept.power {s : State} {x : Int} (hx : s.cfg.wf = true → s.cfg.pMin ≤ x ∧ x ≤ s.cfg.pMax) :
    Kept s { s with chip := { s.chip with outputPower := x } } where
  cfg := rfl
  faults := fun _ h => h
  inIsr := id
  inv := fun ⟨⟨hCfg, hRegs, hMode, _, _, hOrd, hStop, hSlots, hClosed⟩, hPins⟩ =>
    ⟨⟨hCfg, hRegs, hMode, (hx hCfg).1, (hx hCfg).2, hOrd, hStop, hSlots, hClosed⟩, hPins⟩
  edge := fun _ => id

theorem Kept.powerOn (s : State) : Kept s (powerOn s) where
  cfg := powerOn_cfg s
  faults := by rw [powerOn_caller]; exact fun _ h => h
  inIsr := fun _ => rfl
  inv := fun ⟨h, _⟩ => by
    obtain ⟨hLow, hHigh⟩ := powerOn_power h.cfgWf
    obtain ⟨hFn0, hFn1⟩ := pinFn_of_clear (powerOn_hw s)
    refine ⟨⟨by rw [powerOn_cfg]; exact h.cfgWf, powerOn_regsWf h.cfgWf h.regsWf, ?_, by rw [powerOn_cfg]; exact hLow,
      by rw [powerOn_cfg]; exact hHigh, by rw [powerOn_caller]; exact h.faultsOrdered,
      by rw [powerOn_caller]; exact h.stoppedFaulted, rfl, fun _ => rfl⟩, hFn0.symm, hFn1.symm⟩
    rw [powerOn_mode h.cfgWf h.regsWf]
    rfl
  edge := fun _ _ _ h => by simp at h

/-! ## The bracket (R120 to R122) -/

/-- A bracket's bytes are sent and got slot by slot, and a closed one holds none. -/
theorem Kept.port {s : State} (p : PortState) (hs : s.port.got.length = s.port.sent.length → p.got.length = p.sent.length)
    (hc : p.busSelected = false → (s.port.busSelected = false → s.port.sent = []) → p.sent = []) :
    Kept s { s with port := p } where
  cfg := rfl
  faults := fun _ h => h
  inIsr := id
  inv := fun ⟨⟨hCfg, hRegs, hMode, hLow, hHigh, hOrd, hStop, hSlots, hClosed⟩, hPins⟩ =>
    ⟨⟨hCfg, hRegs, hMode, hLow, hHigh, hOrd, hStop, hs hSlots, fun h => hc h hClosed⟩, hPins⟩
  edge := fun _ => id

theorem Kept.closeBus (s : State) : Kept s (closeBus s) := .port _ (fun _ => rfl) fun _ _ => rfl

end Sys2Proof.Machine
end

section
/-! SUPPORT. `Kept` lifted to transactions and outcomes: every transaction, every operation of the other agents, every
instruction keeps what `Kept` says. -/

namespace Sys2Proof.Machine

/-! ## Predicates of what an operation leaves -/

/-- Every state the transaction leaves, done or faulted, meets `P`. -/
def Tx.Leaves {α : Type} (P : State → Prop) : Tx α → Prop
  | .done _ t => P t
  | .raised t => P t
  | .refused _ => True

/-- The next state meets `P`, and the outcome is no fault. -/
def NextIs (P : State → Prop) : Out State → Prop
  | .next t => P t
  | .fault _ => False
  | .refused _ => True

section
variable {P : State → Prop}

theorem Tx.Leaves.andThen {α β : Type} {t : Tx α} {k : α → State → Tx β} (h : t.Leaves P)
    (hk : ∀ v u, P u → (k v u).Leaves P) : (t.andThen k).Leaves P := by
  cases t with
  | done v u => exact hk v u h
  | raised u => exact h
  | refused r => trivial

theorem Tx.Leaves.mono {α : Type} {Q : State → Prop} {t : Tx α} (h : t.Leaves P) (hPQ : ∀ u, P u → Q u) :
    t.Leaves Q := by
  cases t with
  | done v u => exact hPQ u h
  | raised u => exact hPQ u h
  | refused r => trivial

theorem Tx.Leaves.stateOr {α : Type} {t : Tx α} {s : State} (h : t.Leaves P) (hs : P s) : P (t.stateOr s) := by
  cases t with
  | done v u => exact h
  | raised u => exact h
  | refused r => exact hs

theorem Tx.Leaves.out {t : Tx Unit} (h : t.Leaves P) : NextIs P t.out := by
  cases t with
  | done v u => exact h
  | raised u => exact h
  | refused r => trivial

theorem Tx.Leaves.ite {α : Type} {t u : Tx α} {p : Prop} [Decidable p] (h : t.Leaves P) (k : u.Leaves P) :
    (if p then t else u).Leaves P := by
  split
  · exact h
  · exact k

theorem bracket_leaves {α : Type} {ag : Agent} {a : Addr} {s : State} {k : Tx α}
    (hRaise : P (raise ag (.unsettledAccess a) s)) (hk : k.Leaves P) : (bracket ag a s k).Leaves P := by
  rcases bracket_cases ag a s k with ⟨-, h⟩ | ⟨-, -, h⟩ | ⟨-, h⟩ <;> rw [h]
  · trivial
  · exact hRaise
  · exact hk

theorem NextIs.onNext {Q : State → Prop} {o : Out State} {f : State → State} (h : NextIs P o) (hf : ∀ t, P t → Q (f t)) :
    NextIs Q (onNext f o) := by
  cases o with
  | next t => exact hf t h
  | fault r => exact h
  | refused r => trivial

theorem NextIs.mono {Q : State → Prop} {o : Out State} (h : NextIs P o) (hPQ : ∀ t, P t → Q t) : NextIs Q o := by
  cases o with
  | next t => exact hPQ t h
  | fault r => exact h
  | refused r => trivial

theorem NextIs.admitted {o : Out State} (h : NextIs P o) (who : List Agent) (s : State) :
    NextIs P (ifAdmitted who s o) := by
  unfold ifAdmitted
  split
  · trivial
  · split
    · trivial
    · exact h

theorem NextIs.ofFamily {o : Out State} (h : NextIs P o) (f : Family) (s : State) : NextIs P (ofFamily f s o) := by
  unfold Sys2Proof.Machine.ofFamily
  split
  · exact h
  · trivial

end

theorem Tx.Leaves.outWith {α : Type} {s : State} {t : Tx α} (h : t.Leaves (Kept s)) (result : α → Result)
    (drawn : State → Result) (n : Nat) : NextIs (Kept s) (t.outWith result drawn n) := by
  cases t with
  | done v u => exact Kept.trans h (.answer _ _)
  | raised u => exact Kept.trans h ((Kept.drew _ _).trans (.answer _ _))
  | refused r => trivial

theorem Kept.admitted {s t : State} (h : Kept s t) (who : List Agent) :
    NextIs (Kept s) (ifAdmitted who s (.next t)) :=
  NextIs.admitted (o := .next t) h who s

theorem Kept.ofFamily {s t : State} (h : Kept s t) (f : Family) : NextIs (Kept s) (ofFamily f s (.next t)) :=
  NextIs.ofFamily (o := .next t) h f s

/-! ## Transactions -/

theorem rdreg_kept (ag : Agent) (a : Addr) (fill : Byte) (s : State) : (rdreg ag a fill s).Leaves (Kept s) :=
  bracket_leaves (.raise ag _ s) (((Kept.readEffect s a).trans (.drew _ _)).trans (.sentFrame _ _ _))

theorem wrreg_kept (ag : Agent) (a : Addr) (d : Byte) (s : State) : (wrreg ag a d s).Leaves (Kept s) := by
  refine bracket_leaves (.raise ag _ s) ?_
  cases h : writeEffect a d s with
  | ok t => exact (Kept.writeEffect h).trans (.sentFrame _ _ _)
  | error r => trivial

theorem Kept.fifoPush {s t : State} {bytes : List Byte} (h : fifoPush bytes s = .ok t) : Kept s t := by
  unfold Sys2Proof.Machine.fifoPush at h
  split at h
  · cases h
  · cases h
    exact .fifo s _

theorem fifowr_kept (ag : Agent) (bytes : List Byte) (s : State) : (fifowr ag bytes s).Leaves (Kept s) := by
  refine bracket_leaves (.raise ag _ s) ?_
  cases h : fifoPush bytes s with
  | ok t => exact (Kept.fifoPush h).trans (.sentFrame _ _ _)
  | error r => trivial

theorem fiford_kept (ag : Agent) (fill : List Byte) (s : State) : (fiford ag fill s).Leaves (Kept s) :=
  bracket_leaves (.raise ag _ s) (((Kept.fifoPop s fill.length).trans (.drew _ _)).trans (.sentFrame _ _ _))

theorem writePower_kept (ag : Agent) {x : Int} {s : State} (hx : s.cfg.wf = true → s.cfg.pMin ≤ x ∧ x ≤ s.cfg.pMax) :
    (writePower ag x s).Leaves (Kept s) :=
  bracket_leaves (.raise ag _ s) (((Kept.power hx).trans (.drew _ _)).trans (.sentFrame _ _ _))

/-! ## The other agents (R72) -/

theorem sampleTx_kept (ag : Agent) (s : State) : (sampleTx ag s).Leaves (Kept s) :=
  (rdreg_kept ag _ _ s).andThen fun v u hu =>
    have hStored : Kept s { u with latch := u.latch.setShadow .one v } :=
      hu.trans (.frame rfl rfl rfl rfl rfl rfl rfl)
    ((rdreg_kept ag _ _ _).mono fun _ => hStored.trans).andThen fun _ _ hw =>
      hw.trans (.frame rfl rfl rfl rfl rfl rfl rfl)

theorem latchTx_kept (ag : Agent) (s : State) : (latchTx ag s).Leaves (Kept s) :=
  (rdreg_kept ag _ _ s).andThen fun _ _ hu =>
    ((rdreg_kept ag _ _ _).mono fun _ => hu.trans).andThen fun _ _ hw =>
      hw.trans (.frame rfl rfl rfl rfl rfl rfl rfl)

theorem serviceBody_kept (s : State) : Kept s (serviceBody s) := by
  unfold serviceBody
  split
  · exact (sampleTx_kept .isr s).stateOr (.refl s)
  · exact (latchTx_kept .isr s).stateOr (.refl s)

/-- A family S service reads both status registers, so that no level stays high, unless its first read faulted. -/
theorem serviceBody_levels {s : State} (hc : s.cfg.wf = true) (hf : s.cfg.family = .s)
    (hBus : s.port.busSelected = false) :
    ((serviceBody s).pins.level0 = false ∧ (serviceBody s).pins.level1 = false) ∨
      (serviceBody s).caller.isrStopped = true := by
  have hBody : serviceBody s = (latchTx .isr s).stateOr s := by simp only [serviceBody, hf]
  rw [hBody]
  cases hSettle : s.port.settlePending
  case false =>
    obtain ⟨t, ht, -, -, -, -, h0, h1, -⟩ := latchTx_ready hc hf ⟨hBus, hSettle⟩ .isr
    rw [ht]
    exact .inl ⟨h0, h1⟩
  case true =>
    rw [latchTx, rdreg_unsettled hBus hSettle]
    exact .inr rfl

theorem Kept.serviceIrq (s : State) : Kept s (serviceIrq s) := by
  unfold Sys2Proof.Machine.serviceIrq
  split
  case isFalse => exact .refl s
  case isTrue hEnabled =>
    have hBody := serviceBody_kept (enterIsr s)
    have hBus : s.port.busSelected = false := by
      simp only [irqEnabled, Bool.and_eq_true, Bool.not_eq_true'] at hEnabled
      exact hEnabled.2
    refine ⟨hBody.cfg, hBody.faults, fun _ => rfl, fun ⟨hb, hp⟩ => ?_, fun hc _ hf hHigh => .inr ?_⟩
    · obtain ⟨hb', hp'⟩ := hBody.inv ⟨hb.congr (by constructor <;> rfl), hp⟩
      exact ⟨hb'.congr (by constructor <;> rfl), hp'⟩
    · have hFamily : s.cfg.family = .s := by rw [← hf]; exact congrArg Cfg.family hBody.cfg.symm
      rcases serviceBody_levels (s := enterIsr s) hc hFamily hBus with ⟨h0, h1⟩ | h
      · simp [h0, h1] at hHigh
      · exact h

theorem Kept.radioStep (ev : RadioEvent) (s : State) : Kept s (radioStep ev s) := by
  unfold Sys2Proof.Machine.radioStep
  split
  · cases ev <;> exact .updated rfl rfl rfl (BlockInv.congr (by constructor <;> rfl))
  · exact .refl s

theorem Kept.forceTimeout (s : State) : Kept s (forceTimeout s) := by
  apply Kept.frame <;> simp

theorem Kept.envStep (s : State) (e : EnvStep) : Kept s (envStep s e) := by
  cases e with
  | irqsvc => exact .ite (.refl s) (.serviceIrq s)
  | forceto => exact .forceTimeout s
  | radio ev => exact .radioStep ev s

theorem Kept.envSteps (g : List EnvStep) (s : State) : Kept s (g.foldl Sys2Proof.Machine.envStep s) := by
  induction g generalizing s with
  | nil => exact .refl s
  | cons e g ih => exact (Kept.envStep s e).trans (ih _)

theorem Kept.preempt (s : State) : Kept s (preempt s) := by
  unfold Sys2Proof.Machine.preempt
  split
  · exact .refl s
  · rename_i g gs _
    have hTaken : Kept s { s with env := { s.env with gaps := gs } } := .frame rfl rfl rfl rfl rfl rfl rfl
    exact hTaken.trans (.envSteps g _)

/-! ## Primitives of several transactions -/

theorem rmw_kept (ag : Agent) (a : Addr) (f : Byte → Byte) (s : State) : (rmw ag a f s).Leaves (Kept s) :=
  (rdreg_kept ag a _ s).andThen fun _ _ hu => (wrreg_kept ag a _ _).mono fun _ => (hu.trans (.preempt _)).trans

theorem toenH_kept (on : Bool) (s : State) : (toenH on s).Leaves (Kept s) :=
  (rmw_kept _ _ _ s).andThen fun _ _ hu =>
    ((wrreg_kept _ _ _ _).mono fun _ => (hu.trans (.preempt _)).trans).andThen fun _ _ hw =>
      (wrreg_kept _ _ _ _).mono fun _ => (hw.trans (.preempt _)).trans

theorem toenS_kept (s : State) : (toenS s).Leaves (Kept s) :=
  (rmw_kept _ _ _ s).andThen fun _ _ hu => (hu.trans (.preempt _)).trans (.frame rfl rfl rfl rfl rfl rfl rfl)

theorem writeNodeAddress_kept (addr : Byte) (s : State) : (writeNodeAddress addr s).Leaves (Kept s) :=
  bracket_leaves (.raise _ _ s) (.sentFrame s _ _)

/-! ## Instructions -/

theorem fifowrOp_kept (bytes : List Byte) (s : State) : NextIs (Kept s) (fifowrOp bytes s) :=
  (fifowr_kept _ bytes s).out.admitted _ s

theorem fifordOp_kept (fill : List Byte) (s : State) : NextIs (Kept s) (fifordOp fill s) :=
  ((fiford_kept _ fill s).outWith _ _ _).admitted _ s

theorem rdregOp_kept (a : Addr) (d : Byte) (s : State) : NextIs (Kept s) (rdregOp a d s) := by
  unfold rdregOp
  split
  · exact fifordOp_kept [d] s
  · exact ((rdreg_kept _ a d s).outWith _ _ _).admitted _ s

theorem wrregOp_kept (a : Addr) (d : Byte) (s : State) : NextIs (Kept s) (wrregOp a d s) := by
  unfold wrregOp
  split
  · exact fifowrOp_kept [d] s
  · exact (wrreg_kept _ a d s).out.admitted _ s

theorem setmodeOp_kept (m : Mode) (s : State) : NextIs (Kept s) (setmodeOp m s) :=
  (rmw_kept _ _ _ s).out.admitted _ s

theorem toenOp_kept (on : Bool) (s : State) : NextIs (Kept s) (toenOp on s) := by
  refine NextIs.admitted ?_ _ s
  split
  · exact (toenH_kept on s).out
  · exact (toenS_kept s).out

theorem mapTx_kept (ag : Agent) (a : Addr) (m x : Byte) (s : State) : (mapTx ag a m x s).Leaves (Kept s) :=
  rmw_kept ag a _ s

theorem Kept.clearBit (e : Event) (s : State) : Kept s (clearBit e s) := .frame rfl rfl rfl rfl rfl rfl rfl

theorem Kept.clearShadows (s : State) : Kept s (clearShadows s) := .frame rfl rfl rfl rfl rfl rfl rfl

theorem Kept.clearFlag (e : Event) (s : State) : Kept s (clearFlag e s) := by
  unfold Sys2Proof.Machine.clearFlag
  split
  · exact .clearShadows s
  · exact .clearBit e s

theorem clrfOp_kept (e : Event) (s : State) : NextIs (Kept s) (clrfOp e s) :=
  (Kept.clearFlag e s).admitted _

theorem rdfOp_kept (e : Event) (s : State) : NextIs (Kept s) (rdfOp e s) :=
  (Kept.answer s _).admitted _

theorem execDelay_kept (s : State) : NextIs (Kept s) (execDelay s) :=
  (Kept.port { s.port with settlePending := false } id fun h hc => hc h).admitted _

theorem execPwron_kept (s : State) : NextIs (Kept s) (execPwron s) :=
  (Kept.powerOn s).admitted _

theorem fallback_range {c : Cfg} (h : c.wf = true) : c.pMin ≤ c.pFallback ∧ c.pFallback ≤ c.pMax :=
  ⟨(cfgFacts h).fallbackLow, (cfgFacts h).fallbackHigh⟩

theorem execPwrfull_kept (s : State) : NextIs (Kept s) (execPwrfull s) :=
  (writePower_kept _ fallback_range).out.admitted _ s

theorem execSel_kept (s : State) : NextIs (Kept s) (execSel s) := by
  refine NextIs.admitted ?_ _ s
  split
  · trivial
  · exact Kept.port _ (fun _ => rfl) fun _ _ => rfl

theorem execXfer_kept (b : Byte) (s : State) : NextIs (Kept s) (execXfer b s) := by
  refine NextIs.admitted ?_ _ s
  split
  · trivial
  rename_i hOpen
  split
  · trivial
  refine Kept.trans (.port _ (fun h => ?_) fun h => ?_) ((Kept.drew _ 1).trans (.answer _ _))
  · simp [h]
  · exact absurd h (by simpa using hOpen)

theorem closeEffect_kept (ab : Byte) (data : List Byte) (s : State) : (closeEffect ab data s).Leaves (Kept s) := by
  have hRead : Kept s ((if addrOf ab = s.cfg.regFifo then fifoPop data.length s else readEffect (addrOf ab) s).sentFrame
      (ab :: data) (s.port.got.drop 1)) :=
    Kept.trans (.ite (.fifoPop s _) (.readEffect s _)) (.sentFrame _ _ _)
  refine .ite trivial (.ite trivial (.ite (Kept.raise _ _ s) (.ite ?_ hRead)))
  split
  · rename_i t h
    refine Kept.trans ?_ (.sentFrame t _ _)
    split at h
    · exact .fifoPush h
    · exact .writeEffect h
  · trivial

theorem execDesel_kept (s : State) : NextIs (Kept s) (execDesel s) := by
  refine NextIs.admitted ?_ _ s
  split
  · trivial
  split
  · trivial
  split
  · exact Kept.closeBus s
  rename_i ab data _
  have h := closeEffect_kept ab data s
  cases hClose : closeEffect ab data s with
  | done v t => rw [hClose] at h; exact Kept.trans h (.closeBus t)
  | raised t => rw [hClose] at h; exact Kept.trans h (.closeBus t)
  | refused r => trivial

/-- Every instruction keeps what `Kept` says, and answers no fault. -/
theorem exec_kept (i : Instr) (s : State) : NextIs (Kept s) (exec i s) := by
  cases i
  case sel => exact execSel_kept s
  case desel => exact execDesel_kept s
  case xfer b => exact execXfer_kept b s
  case delay => exact execDelay_kept s
  case pwron => exact execPwron_kept s
  case setmodeSleep | setmodeStandby | setmodeFrequencySynth | setmodeTransmit | setmodeReceive =>
    exact setmodeOp_kept _ s
  case irqsvc => exact (Kept.serviceIrq s).admitted _
  case sample => exact ((sampleTx_kept _ s).out.ofFamily _ s).admitted _ s
  case latch => exact ((latchTx_kept _ s).out.ofFamily _ s).admitted _ s
  case clear => exact ((Kept.clearShadows s).ofFamily _).admitted _ s
  case clrpr | clrps | clrto => exact ((Kept.clearBit _ s).ofFamily _).admitted _ s
  case clrfPr | clrfPs | clrfTo => exact clrfOp_kept _ s
  case rdfPr | rdfPs | rdfTo => exact rdfOp_kept _ s
  case mappr | mapps | mapto => exact (mapTx_kept _ _ _ _ s).out.admitted _ s
  case toenOff | toenOn => exact toenOp_kept _ s
  case forceto => exact (Kept.forceTimeout s).admitted _
  case pwrfull => exact execPwrfull_kept s
  case fifowr bytes => exact fifowrOp_kept bytes s
  case fiford fill => exact fifordOp_kept fill s
  case rdreg | rdregOpmode | rdregVersion | rdregPower | rdregRssi | rdregPinmapA | rdregPinmapB | rdregIrq1 | rdregIrq2
      | rdregRxto1 | rdregRxto2 =>
    exact rdregOp_kept _ _ s
  case wrreg | wrregOpmode | wrregVersion | wrregPower | wrregRssi | wrregPinmapA | wrregPinmapB | wrregIrq1 | wrregIrq2
      | wrregRxto1 | wrregRxto2 =>
    exact wrregOp_kept _ _ s

end Sys2Proof.Machine
end

section
/-! SUPPORT. Every statement of the Host and every step keeps what `Kept` says; from it the invariant, the edges, the
faults and the configuration. -/

namespace Sys2Proof.Machine

/-! ## The Host's position -/

theorem Kept.setTop (g : Frame → Frame) (s : State) : Kept s (setTop g s) := by
  unfold Sys2Proof.Machine.setTop
  split
  · exact .refl s
  · exact .frame rfl rfl rfl rfl rfl rfl rfl

theorem Kept.goto (k : Nat) (s : State) : Kept s (goto k s) := .setTop _ s

theorem Kept.bindTop (g : Locals → Locals) (s : State) : Kept s (bindTop g s) := .setTop _ s

theorem Kept.gotoBind (k : Nat) (g : Locals → Locals) (s : State) :
    Kept s (Sys2Proof.Machine.goto k (Sys2Proof.Machine.bindTop g s)) :=
  (Kept.bindTop g s).trans (.goto k _)

theorem Kept.pushFrame (p : Pseudo) (s : State) : Kept s (pushFrame p s) := .frame rfl rfl rfl rfl rfl rfl rfl

theorem Kept.callThen (p : Pseudo) (k : Nat) (s : State) : Kept s (callThen p k s) :=
  (Kept.goto k s).trans (.pushFrame p _)

theorem Kept.ret (r : Result) (s : State) : Kept s (ret r s) := .frame rfl rfl rfl rfl rfl rfl rfl

theorem NextIs.thenGoto {s : State} {o : Out State} (h : NextIs (Kept s) o) (k : Nat) :
    NextIs (Kept s) (thenGoto k o) :=
  h.onNext fun t ht => ht.trans (.goto k t)

theorem NextIs.thenBind {s : State} {o : Out State} (h : NextIs (Kept s) o) (k : Nat) (g : State → Locals → Locals) :
    NextIs (Kept s) (Machine.onNext (fun t => goto k (bindTop (g t) t)) o) :=
  h.onNext fun t ht => ht.trans (.gotoBind k (g t) t)

theorem NextIs.ite {P : State → Prop} {o o' : Out State} {p : Prop} [Decidable p] (h : NextIs P o) (k : NextIs P o') :
    NextIs P (if p then o else o') := by
  split
  · exact h
  · exact k

/-! ## The statements, one expansion at a time -/

theorem stmtWaitf_kept (first : Event) (rest : List Event) (f : Frame) (s : State) :
    NextIs (Kept s) (stmtWaitf first rest f s) := by
  unfold stmtWaitf
  split
  · exact (rdfOp_kept _ s).thenBind _ _
  · exact .ite (o := .next _) (o' := .next _) (Kept.ret _ s) (Kept.gotoBind _ _ s)

theorem stmtInit_kept (f : Frame) (s : State) : NextIs (Kept s) (stmtInit f s) := by
  unfold stmtInit
  split
  · have hCleared : Kept s { s with caller := { s.caller with initFailed := false } } :=
      .frame rfl rfl rfl rfl rfl rfl rfl
    exact ((execPwron_kept _).mono fun _ => hCleared.trans).thenGoto 1
  · exact (execDelay_kept s).thenGoto 2
  · exact (rdregOp_kept _ _ s).thenBind _ _
  · have hFailed : Kept s { s with caller := { s.caller with initFailed := true } } :=
      .frame rfl rfl rfl rfl rfl rfl rfl
    exact .ite (o := .next _) (o' := .next _) (hFailed.trans (.ret _ _)) (.goto 4 s)
  · exact Kept.goto 5 s
  · exact (Kept.power fallback_range).trans (.goto 6 _)
  · split
    · exact (((Kept.clearShadows s).ofFamily .h).admitted [.host] s).thenGoto 9
    · exact (((Kept.clearBit .pr s).ofFamily .s).admitted [.host] s).thenGoto 7
  · exact (((Kept.clearBit .ps s).ofFamily .s).admitted [.host] s).thenGoto 8
  · exact (((Kept.clearBit .tmo s).ofFamily .s).admitted [.host] s).thenGoto 9
  · exact Kept.ret _ s

theorem stmtSleep_kept (f : Frame) (s : State) : NextIs (Kept s) (stmtSleep f s) := by
  unfold stmtSleep
  split
  · exact (setmodeOp_kept .sleep s).thenGoto 1
  · exact Kept.ret _ s

theorem stmtWake_kept (f : Frame) (s : State) : NextIs (Kept s) (stmtWake f s) := by
  unfold stmtWake
  split
  · exact (setmodeOp_kept .standby s).thenGoto 1
  · exact (execDelay_kept s).thenGoto 2
  · exact Kept.ret _ s

theorem stmtStartrx_kept (t : Bool) (f : Frame) (s : State) : NextIs (Kept s) (stmtStartrx t f s) := by
  unfold stmtStartrx
  split
  · exact (toenOp_kept t s).thenGoto 1
  · exact (exec_kept .mappr s).thenGoto 2
  · exact (clrfOp_kept .pr s).thenGoto 3
  · exact (setmodeOp_kept .receive s).thenGoto 4
  · exact Kept.ret _ s

theorem consume_kept (e : Event) (k : Nat) (s : State) : NextIs (Kept s) (consume e k s) := by
  unfold consume
  split
  · exact (clrfOp_kept e s).thenGoto k
  · exact Kept.goto k s

theorem stmtPollrx_kept (f : Frame) (s : State) : NextIs (Kept s) (stmtPollrx f s) := by
  unfold stmtPollrx
  split
  · exact (rdfOp_kept .pr s).thenBind _ _
  · exact .ite (o := .next _) (o' := .next _) (Kept.goto 2 s) (Kept.ret _ s)
  · exact consume_kept .pr 3 s
  · exact (rdregOp_kept _ _ s).thenBind _ _
  · exact (rdregOp_kept _ _ s).thenBind _ _
  · exact (setmodeOp_kept .standby s).thenGoto 6
  · exact Kept.ret _ s

theorem stmtReadpl_kept (cap : Nat) (f : Frame) (s : State) : NextIs (Kept s) (stmtReadpl cap f s) := by
  unfold stmtReadpl
  split
  · exact (fifordOp_kept _ s).thenBind _ _
  · exact .ite (o := .next _) (o' := .next _) (Kept.raise _ _ s) (Kept.goto 2 s)
  · exact (fifordOp_kept _ s).thenGoto 3
  · exact .ite (o' := .next _) ((fifordOp_kept _ s).onNext fun t ht => ht.trans (.bindTop _ t)) (Kept.ret _ s)

theorem stmtRxpl_kept (cap : Nat) (t : Bool) (f : Frame) (s : State) : NextIs (Kept s) (stmtRxpl cap t f s) := by
  unfold stmtRxpl
  split
  · exact Kept.callThen _ _ s
  · exact Kept.callThen _ _ s
  · exact Kept.gotoBind _ _ s
  · exact consume_kept .pr 4 s
  · exact (setmodeOp_kept .standby s).thenGoto 5
  · exact (toenOp_kept false s).thenGoto _
  · exact (execPwrfull_kept s).thenGoto 7
  · exact ((Kept.fifo s _).trans (.drew _ _)).trans (.goto 8 _)
  · exact Kept.ret _ s
  · exact Kept.callThen _ _ s
  · exact Kept.ret _ s

theorem stmtTxpl_kept (payload : List Byte) (dest : Byte) (f : Frame) (s : State) :
    NextIs (Kept s) (stmtTxpl payload dest f s) := by
  unfold stmtTxpl
  split
  · exact (fifowrOp_kept _ s).thenGoto 1
  · exact (exec_kept .mapps s).thenGoto 2
  · exact (clrfOp_kept .ps s).thenGoto 3
  · exact (setmodeOp_kept .transmit s).thenGoto 4
  · exact Kept.callThen _ _ s
  · exact consume_kept .ps 6 s
  · exact (setmodeOp_kept .standby s).thenGoto 7
  · exact Kept.ret _ s

theorem stmtSetaddr_kept (addr : Byte) (f : Frame) (s : State) : NextIs (Kept s) (stmtSetaddr addr f s) := by
  unfold stmtSetaddr
  split
  · exact ((writeNodeAddress_kept addr s).out.admitted _ s).thenGoto 1
  · exact Kept.ret _ s

theorem clampInt_range {c : Cfg} (h : c.wf = true) (x : Int) :
    c.pMin ≤ clampInt x c.pMin c.pMax ∧ clampInt x c.pMin c.pMax ≤ c.pMax := by
  have := (cfgFacts h).powerRange
  unfold clampInt
  omega

theorem stmtSetpwr_kept (x : Int) (f : Frame) (s : State) : NextIs (Kept s) (stmtSetpwr x f s) := by
  unfold stmtSetpwr
  split
  · exact ((writePower_kept .host fun h => clampInt_range h x).out.admitted _ s).thenGoto 1
  · exact Kept.ret _ s

theorem stmtGetpwr_kept (f : Frame) (s : State) : NextIs (Kept s) (stmtGetpwr f s) := by
  unfold stmtGetpwr
  split
  · exact (rdregOp_kept _ _ s).thenGoto 1
  · exact Kept.ret _ s

theorem stmt_kept (f : Frame) (s : State) : NextIs (Kept s) (stmt f s) := by
  unfold stmt
  cases f.op with
  | waitf first rest => exact stmtWaitf_kept first rest f s
  | init => exact stmtInit_kept f s
  | sleep => exact stmtSleep_kept f s
  | wake => exact stmtWake_kept f s
  | startrx t => exact stmtStartrx_kept t f s
  | pollrx => exact stmtPollrx_kept f s
  | readpl cap => exact stmtReadpl_kept cap f s
  | rxpl cap t => exact stmtRxpl_kept cap t f s
  | txpl payload dest => exact stmtTxpl_kept payload dest f s
  | setaddr addr => exact stmtSetaddr_kept addr f s
  | setpwr x => exact stmtSetpwr_kept x f s
  | getpwr => exact stmtGetpwr_kept f s

/-! ## The step -/

theorem Kept.dropInput (s : State) : Kept s (dropInput s) := .frame rfl rfl rfl rfl rfl rfl rfl

theorem Kept.handOver (ag : Agent) (gaps : List (List EnvStep)) (s : State) : Kept s (handOver ag gaps s) :=
  .frame rfl rfl rfl rfl rfl rfl rfl

theorem hostTurn_kept (gaps : List (List EnvStep)) (s : State) : NextIs (Kept s) (hostTurn gaps s) := by
  unfold hostTurn
  split
  · split
    · exact Kept.refl s
    · exact (stmt_kept _ _).mono fun _ => (Kept.handOver .host gaps s).trans
  · exact Kept.refl s

theorem beginCall_kept (p : Pseudo) (s : State) : NextIs (Kept s) (beginCall p s) := by
  unfold beginCall
  split
  · exact Kept.pushFrame _ s
  all_goals exact .ite (o := .refused _) (o' := .next _) trivial (Kept.pushFrame _ s)

theorem runBytes_kept (port : Port) (bytes : List Byte) (s : State) : NextIs (Kept s) (runBytes port bytes s) := by
  unfold runBytes
  split
  · exact exec_kept _ s
  · trivial

/-- Every step keeps what `Kept` says, and answers no fault. -/
theorem step_kept (s : State) : NextIs (Kept s) (step s) := by
  unfold step turn
  split
  · exact hostTurn_kept [] s
  · exact .ite (o := .next _) (Kept.dropInput s)
      (.ite (hostTurn_kept [] s)
        ((runBytes_kept _ _ _).mono fun _ => ((Kept.dropInput s).trans (.handOver _ _ _)).trans))
  · exact .ite (o := .next _) (Kept.dropInput s)
      (.ite (hostTurn_kept [] s) ((beginCall_kept _ _).mono fun _ => (Kept.dropInput s).trans))
  · exact (hostTurn_kept _ _).mono fun _ => (Kept.dropInput s).trans
  · exact (Kept.dropInput s).trans (.radioStep _ _)

theorem kept_of_step {s t : State} (h : step s = .next t) : Kept s t := by
  have k := step_kept s
  rw [h] at k
  exact k

/-- Settles O44: every operation keeps the parts of the invariant, so every step does. -/
theorem everyStepKeepsTheInvariant : Obligations.EveryStepKeepsTheInvariant :=
  fun _ _ hInv h => (kept_of_step h).invariant hInv

/-- Settles O45: UpdatePins raises a request with every rising level, and a service that takes a request ends with both
levels low or the Isr stopped. -/
theorem noEdgeIsLostUnderFamilyS : Obligations.NoEdgeIsLostUnderFamilyS :=
  fun _ _ hInv hEdge h => (kept_of_step h).edge hInv.cfgWf hEdge

/-- Settles O46: no operation answers a fault, and the record only grows. -/
theorem faultsAndConfigurationPersist : Obligations.FaultsAndConfigurationPersist := by
  refine fun s => ⟨fun f h => ?_, fun t h => ⟨(kept_of_step h).cfg, (kept_of_step h).faults⟩⟩
  have k := step_kept s
  rw [h] at k
  exact k

end Sys2Proof.Machine
end

section
/-! SUPPORT. Who may issue an instruction (R169, R262), and what the other agents leave alone (R72). -/

namespace Sys2Proof.Machine

/-! ## Admission -/

theorem admit_initFailed {s : State} {who : List Agent} (k : Out State) (ha : s.env.agent = .host) (hw : Agent.host ∈ who)
    (hf : s.caller.initFailed = true) : ifAdmitted who s k = .refused .initFailed := by
  simp [ifAdmitted, ha, hw, hf]

theorem readers_subset (c : Cfg) (a : Addr) : ∀ ag ∈ c.readers a, ag ∈ [Agent.host, .isr] := by
  unfold Cfg.readers
  split <;> simp

theorem host_mem_readers (c : Cfg) (a : Addr) : Agent.host ∈ c.readers a := by
  unfold Cfg.readers
  split <;> simp

theorem rdregOp_wrongAgent {s : State} (h : s.env.agent ∉ [Agent.host, .isr]) (a : Addr) (d : Byte) :
    rdregOp a d s = .refused .wrongAgent := by
  unfold rdregOp
  split
  · exact admit_wrongAgent fun hm => h (List.mem_cons_of_mem _ (by simp at hm h; exact absurd hm h.1))
  · exact admit_wrongAgent fun hm => h (readers_subset _ _ _ hm)

theorem wrregOp_wrongAgent {s : State} (h : s.env.agent ∉ [Agent.host]) (a : Addr) (d : Byte) :
    wrregOp a d s = .refused .wrongAgent := by
  unfold wrregOp
  split <;> exact admit_wrongAgent h

/-- Settles O49: each row's first check is that its issuer is one of those listed for it. -/
theorem wrongAgentsAreRefused : Obligations.WrongAgentsAreRefused := by
  intro s i h
  cases i
  case rdreg | rdregOpmode | rdregVersion | rdregPower | rdregRssi | rdregPinmapA | rdregPinmapB | rdregIrq1 | rdregIrq2
      | rdregRxto1 | rdregRxto2 =>
    exact rdregOp_wrongAgent h _ _
  case wrreg | wrregOpmode | wrregVersion | wrregPower | wrregRssi | wrregPinmapA | wrregPinmapB | wrregIrq1 | wrregIrq2
      | wrregRxto1 | wrregRxto2 =>
    exact wrregOp_wrongAgent h _ _
  all_goals exact admit_wrongAgent h

theorem rdregOp_initFailed {s : State} (ha : s.env.agent = .host) (hf : s.caller.initFailed = true) (a : Addr) (d : Byte) :
    rdregOp a d s = .refused .initFailed := by
  unfold rdregOp
  split
  · exact admit_initFailed _ ha (by simp) hf
  · exact admit_initFailed _ ha (host_mem_readers _ _) hf

theorem wrregOp_initFailed {s : State} (ha : s.env.agent = .host) (hf : s.caller.initFailed = true) (a : Addr) (d : Byte) :
    wrregOp a d s = .refused .initFailed := by
  unfold wrregOp
  split <;> exact admit_initFailed _ ha (by simp) hf

/-- Settles O50: the Host's second check is that no INIT has failed, in every row that is its to issue and in every
call but INIT. -/
theorem failedInitRefusesTheHost : Obligations.FailedInitRefusesTheHost := by
  refine fun s hf => ⟨fun i ha hi => ?_, fun p hp => ?_⟩
  · cases i
    case rdreg | rdregOpmode | rdregVersion | rdregPower | rdregRssi | rdregPinmapA | rdregPinmapB | rdregIrq1
        | rdregIrq2 | rdregRxto1 | rdregRxto2 =>
      exact rdregOp_initFailed ha hf _ _
    case wrreg | wrregOpmode | wrregVersion | wrregPower | wrregRssi | wrregPinmapA | wrregPinmapB | wrregIrq1
        | wrregIrq2 | wrregRxto1 | wrregRxto2 =>
      exact wrregOp_initFailed ha hf _ _
    all_goals exact admit_initFailed _ ha hi hf
  · cases p
    case init f n b => exact absurd rfl (hp f n b)
    all_goals exact if_pos hf

/-! ## Operations of the Isr and the Timer -/

/-- What an operation of another agent than the Host leaves alone, the FIFO included (R24, R25, R72). -/
structure OtherAgentKept (s t : State) : Prop where
  cfg : t.cfg = s.cfg
  regs : t.chip.regs = s.chip.regs
  power : t.chip.outputPower = s.chip.outputPower
  fifo : t.chip.fifo = s.chip.fifo
  hostPos : t.caller.hostPos = s.caller.hostPos
  result : t.caller.result = s.caller.result
  agent : t.env.agent = s.env.agent

theorem OtherAgentKept.refl (s : State) : OtherAgentKept s s := ⟨rfl, rfl, rfl, rfl, rfl, rfl, rfl⟩

theorem OtherAgentKept.trans {s t u : State} (h : OtherAgentKept s t) (k : OtherAgentKept t u) : OtherAgentKept s u :=
  ⟨k.cfg.trans h.cfg, k.regs.trans h.regs, k.power.trans h.power, k.fifo.trans h.fifo, k.hostPos.trans h.hostPos,
    k.result.trans h.result, k.agent.trans h.agent⟩

/-- A read away from `REG_FIFO` takes nothing out of it. -/
theorem readEffect_fifo {s : State} {a : Addr} (ha : a ≠ s.cfg.regFifo) :
    (readEffect a s).chip.fifo = s.chip.fifo := by
  unfold readEffect
  rw [if_neg ha]
  repeat' split
  all_goals simp

theorem OtherAgentKept.raise_isr (f : Fault) (s : State) : OtherAgentKept s (raise .isr f s) :=
  ⟨rfl, rfl, rfl, rfl, rfl, rfl, rfl⟩

theorem OtherAgentKept.answer {s : State} (h : s.env.agent = .isr) (r : Result) : OtherAgentKept s (s.answer r) := by
  simp only [State.answer, h]
  exact ⟨rfl, rfl, rfl, rfl, rfl, rfl, rfl⟩

theorem rdreg_isr_otherKept {s : State} {a : Addr} (ha : a ≠ s.cfg.regFifo) (fill : Byte) :
    (rdreg .isr a fill s).Leaves (OtherAgentKept s) :=
  bracket_leaves (.raise_isr _ s)
    ⟨by simp, by simp, by simp, by simpa using readEffect_fifo ha, by simp, by simp, by simp⟩

theorem sampleTx_isr_otherKept {s : State} (hc : s.cfg.wf = true) : (sampleTx .isr s).Leaves (OtherAgentKept s) :=
  (rdreg_isr_otherKept (irq_ne hc).1 0#8).andThen fun v u hu => by
    have hStored : OtherAgentKept s { u with latch := u.latch.setShadow .one v } := hu.trans ⟨rfl, rfl, rfl, rfl, rfl, rfl, rfl⟩
    have hNe : u.cfg.regIrq2 ≠ u.cfg.regFifo := by rw [hu.cfg]; exact (irq_ne hc).2.1
    exact ((rdreg_isr_otherKept (s := { u with latch := u.latch.setShadow .one v }) hNe 0#8).mono
      fun _ => hStored.trans).andThen fun _ _ hw => hw.trans ⟨rfl, rfl, rfl, rfl, rfl, rfl, rfl⟩

theorem latchTx_isr_otherKept {s : State} (hc : s.cfg.wf = true) : (latchTx .isr s).Leaves (OtherAgentKept s) :=
  (rdreg_isr_otherKept (irq_ne hc).1 0#8).andThen fun v u hu => by
    have hNe : u.cfg.regIrq2 ≠ u.cfg.regFifo := by rw [hu.cfg]; exact (irq_ne hc).2.1
    exact ((rdreg_isr_otherKept hNe 0#8).mono fun _ => hu.trans).andThen fun _ _ hw =>
      hw.trans ⟨rfl, rfl, rfl, rfl, rfl, rfl, rfl⟩

theorem serviceIrq_otherKept {s : State} (hc : s.cfg.wf = true) : OtherAgentKept s (serviceIrq s) := by
  unfold serviceIrq
  split
  · have hBody : OtherAgentKept (enterIsr s) (serviceBody (enterIsr s)) := by
      unfold serviceBody
      split
      · exact (sampleTx_isr_otherKept (s := enterIsr s) hc).stateOr (.refl _)
      · exact (latchTx_isr_otherKept (s := enterIsr s) hc).stateOr (.refl _)
    exact ⟨hBody.cfg, hBody.regs, hBody.power, hBody.fifo, hBody.hostPos, hBody.result, hBody.agent⟩
  · exact .refl s

theorem isr_not_mem_readers_fifo (c : Cfg) : Agent.isr ∉ c.readers c.regFifo := by
  simp [Cfg.readers, Cfg.hostOnly]

theorem rdregOp_isr_otherKept {s : State} (ha : s.env.agent = .isr) (a : Addr) (d : Byte) :
    NextIs (OtherAgentKept s) (rdregOp a d s) := by
  by_cases hf : a = s.cfg.regFifo
  · have hOnly : s.cfg.hostOnly a = true := by simp [hf, Cfg.hostOnly]
    rw [rdregOp_hostOnly ha hOnly]
    trivial
  · unfold rdregOp
    rw [if_neg hf, ha]
    refine NextIs.admitted ?_ _ s
    have k := rdreg_isr_otherKept hf d
    cases h : rdreg .isr a d s with
    | done v t =>
      rw [h] at k
      exact OtherAgentKept.trans k (.answer (k.agent.trans ha) _)
    | raised t =>
      rw [h] at k
      have hDrew : OtherAgentKept s (t.drew 1) := OtherAgentKept.trans k ⟨rfl, rfl, rfl, rfl, rfl, rfl, rfl⟩
      exact hDrew.trans (.answer (hDrew.agent.trans ha) _)
    | refused r => trivial

theorem execXfer_isr_otherKept {s : State} (ha : s.env.agent = .isr) (b : Byte) :
    NextIs (OtherAgentKept s) (execXfer b s) := by
  refine NextIs.admitted (.ite (o := .refused _) trivial (.ite (o := .refused _) (o' := .next _) trivial ?_)) _ s
  refine OtherAgentKept.trans ?_ (.answer (by simpa using ha) _)
  exact ⟨rfl, rfl, rfl, rfl, rfl, rfl, rfl⟩

/-- A bracket of the Isr is a register read: it has no write, no FIFO access and no mode, pin-map or duration register. -/
theorem closeEffect_isr_otherKept {s : State} (ha : s.env.agent = .isr) (ab : Byte) (data : List Byte) :
    (closeEffect ab data s).Leaves (OtherAgentKept s) := by
  unfold closeEffect
  refine .ite trivial ?_
  by_cases hAllowed : s.env.agent ∉ (if writeBit ab = true then [.host] else s.cfg.readers (addrOf ab))
  · rw [if_pos hAllowed]
    trivial
  rw [if_neg hAllowed]
  rw [not_not, ha] at hAllowed
  have hRead : ¬ writeBit ab = true := fun hw => by simp [hw] at hAllowed
  have hFifo : addrOf ab ≠ s.cfg.regFifo := fun hf => by
    rw [if_neg hRead, hf] at hAllowed
    exact isr_not_mem_readers_fifo s.cfg hAllowed
  rw [if_neg hRead, if_neg hFifo, ha]
  exact .ite (OtherAgentKept.raise_isr _ s)
    ⟨by simp, by simp, by simp, by simpa using readEffect_fifo hFifo, by simp, by simp, by simp⟩

theorem execDesel_isr_otherKept {s : State} (ha : s.env.agent = .isr) : NextIs (OtherAgentKept s) (execDesel s) := by
  refine NextIs.admitted (.ite (o := .refused _) trivial (.ite (o := .refused _) trivial ?_)) _ s
  split
  · exact OtherAgentKept.trans (.refl s) ⟨rfl, rfl, rfl, rfl, rfl, rfl, rfl⟩
  rename_i ab data _
  have k := closeEffect_isr_otherKept ha ab data
  cases h : closeEffect ab data s with
  | done v t => rw [h] at k; exact OtherAgentKept.trans k ⟨rfl, rfl, rfl, rfl, rfl, rfl, rfl⟩
  | raised t => rw [h] at k; exact OtherAgentKept.trans k ⟨rfl, rfl, rfl, rfl, rfl, rfl, rfl⟩
  | refused r => trivial

/-- An instruction of the Isr: SEL, XFER, DESEL, IRQSVC, SAMPLE, LATCH or a register read. -/
theorem exec_isr_otherKept {s : State} (hc : s.cfg.wf = true) (ha : s.env.agent = .isr) {i : Instr}
    (hi : Agent.isr ∈ i.issuers) : NextIs (OtherAgentKept s) (exec i s) := by
  cases i
  case sel =>
    refine NextIs.admitted ?_ _ s
    exact .ite (o := .refused _) (o' := .next _) trivial ⟨rfl, rfl, rfl, rfl, rfl, rfl, rfl⟩
  case desel => exact execDesel_isr_otherKept ha
  case xfer b => exact execXfer_isr_otherKept ha b
  case irqsvc => exact NextIs.admitted (o := .next _) (serviceIrq_otherKept hc) _ s
  case sample =>
    rw [exec, execSample, ha]
    exact ((sampleTx_isr_otherKept hc).out.ofFamily _ s).admitted _ s
  case latch =>
    rw [exec, execLatch, ha]
    exact ((latchTx_isr_otherKept hc).out.ofFamily _ s).admitted _ s
  case rdreg | rdregOpmode | rdregVersion | rdregPower | rdregRssi | rdregPinmapA | rdregPinmapB | rdregIrq1 | rdregIrq2
      | rdregRxto1 | rdregRxto2 =>
    exact rdregOp_isr_otherKept ha _ _
  all_goals simp [Instr.issuers] at hi

/-- The Timer's one instruction is FORCETO. -/
theorem eq_forceto_of_timer {i : Instr} (hi : Agent.timer ∈ i.issuers) : i = .forceto := by
  cases i
  case forceto => rfl
  all_goals simp [Instr.issuers] at hi

theorem radio_not_issuer (i : Instr) : Agent.radio ∉ i.issuers := by
  cases i <;> simp [Instr.issuers]

theorem exec_other_kept {s : State} (hc : s.cfg.wf = true) (ha : s.env.agent ≠ .host) (i : Instr) :
    NextIs (OtherAgentKept s) (exec i s) := by
  by_cases hi : s.env.agent ∈ i.issuers
  case neg =>
    rw [wrongAgentsAreRefused s i hi]
    trivial
  case pos =>
    cases hag : s.env.agent
    case host => exact absurd hag ha
    case isr => exact exec_isr_otherKept hc hag (hag ▸ hi)
    case timer =>
      obtain rfl := eq_forceto_of_timer (hag ▸ hi)
      have k : OtherAgentKept s (forceTimeout s) := by constructor <;> simp
      exact NextIs.admitted (o := .next _) k _ s
    case radio => exact absurd (hag ▸ hi) (radio_not_issuer i)

theorem opTurn_other_kept {s : State} (hc : s.cfg.wf = true) {ag : Agent} (ha : ag ≠ .host) (port : Port)
    (bytes : List Byte) (gaps : List (List EnvStep)) :
    NextIs
      (fun t => t.cfg = s.cfg ∧ t.chip.regs = s.chip.regs ∧ t.chip.outputPower = s.chip.outputPower ∧
        t.chip.fifo = s.chip.fifo ∧ t.caller.hostPos = s.caller.hostPos ∧ t.caller.result = s.caller.result)
      (opTurn ag port bytes gaps s) := by
  refine .ite (o := .next _) ⟨rfl, rfl, rfl, rfl, rfl, rfl⟩ ?_
  rw [if_neg fun h => ha h.1]
  unfold runBytes
  split
  · rename_i i _
    exact (exec_other_kept (s := handOver ag gaps (dropInput s)) hc ha i).mono fun t k =>
      ⟨k.cfg, k.regs, k.power, k.fifo, k.hostPos, k.result⟩
  · trivial

/-- Settles O47: an operation of another agent is one of the few its row allows, a Radio step and the steps of a gap write
nothing of the Host's side. -/
theorem onlyTheHostWritesRegisters : Obligations.OnlyTheHostWritesRegisters := by
  refine ⟨fun s t rest hc h => ⟨fun ag port bytes gaps ha hi => ?_, fun ev hi => ?_⟩, fun s => ?_⟩
  · have hTurn : step s = opTurn ag port bytes gaps s := by simp only [step, turn, hi]
    have k := opTurn_other_kept hc ha port bytes gaps
    rw [← hTurn, h] at k
    obtain ⟨hCfg, hRegs, hPower, hFifo, hPos, hResult⟩ := k
    exact ⟨hRegs, State.mode?_congr hCfg hRegs, hPower, hFifo, hPos, hResult⟩
  · have hTurn : step s = .next (radioStep ev (dropInput s)) := by simp only [step, turn, hi]
    obtain rfl : radioStep ev (dropInput s) = t := Host.Outcome.next.inj (hTurn.symm.trans h)
    have hMode := State.mode?_congr (radioStep_cfg (dropInput s) ev) (radioStep_chip_regs (dropInput s) ev)
    exact ⟨by simp, hMode, by simp, by simp, by simp, by simp⟩
  · have k := preempt_kept s
    exact ⟨k.cfg, k.regs, State.mode?_congr k.cfg k.regs, k.power, k.port, k.hostPos, k.hostStopped, k.result⟩

end Sys2Proof.Machine
end

section
/-! SUPPORT. Raw brackets: SEL, XFER and DESEL (R120 to R122), and a raw write against WRREG (vector V16). -/

namespace Sys2Proof.Machine

/-! ## SEL and XFER -/

theorem exec_sel_closed {s : State} (h : HostOrIsrMay s) (hb : s.port.busSelected = false) :
    exec .sel s =
      .next { s with port := { s.port with busSelected := true, owner := s.env.agent, sent := [], got := [] } } := by
  simp only [exec, execSel, admit_hostOrIsr h, hb, Bool.false_eq_true, if_false]

/-- Settles O8. -/
theorem selOpensABracket : Obligations.SelOpensABracket := by
  refine fun s h => ⟨exec_sel_closed h, fun hb => ?_⟩
  simp only [exec, execSel, admit_hostOrIsr h, hb, if_true]

theorem exec_xfer_open {s : State} (h : HostOrIsrMay s) (hb : s.port.busSelected = true)
    (ho : s.port.owner = s.env.agent) (b : Byte) :
    exec (.xfer b) s =
      .next
        ((({ s with port := { s.port with sent := s.port.sent ++ [b], got := s.port.got ++ [slotValue s] } } : State).drew
          1).answer (.byte (slotValue s))) := by
  simp [exec, execXfer, admit_hostOrIsr h, hb, ho]

/-- The one data slot of a register read gives the register's value (R122). -/
theorem slotValue_register {s : State} {ab : Byte} (hSent : s.port.sent = [ab]) (hRead : writeBit ab = false)
    (hSettled : s.port.settlePending = false) (hMay : MayRead s (addrOf ab)) (hf : addrOf ab ≠ s.cfg.regFifo) :
    slotValue s = readValue (addrOf ab) s := by
  simp [slotValue, hSent, hRead, hSettled, mem_readers hMay, hf]

/-- A data slot of a FIFO read gives the byte of its place (R122, R126). -/
theorem slotValue_fifo {s : State} {ab : Byte} {data : List Byte} {x : Byte} (hSent : s.port.sent = ab :: data)
    (hRead : writeBit ab = false) (hSettled : s.port.settlePending = false) (hMay : HostMay s)
    (hf : addrOf ab = s.cfg.regFifo) (hPresent : s.cfg.present = true) (hx : s.chip.fifo[data.length]? = some x) :
    slotValue s = x := by
  have hReader : s.env.agent ∈ s.cfg.readers s.cfg.regFifo := mem_readers (.inl hMay)
  simp [slotValue, hSent, hRead, hSettled, hReader, hf, hPresent, hx]

/-- Settles O9: the byte got is the slot's value. -/
theorem xferExchangesOneByte : Obligations.XferExchangesOneByte := by
  refine fun s b h => ⟨fun hb => ?_, fun hb ho => ⟨slotValue s, exec_xfer_open h hb ho b, ?_, ?_⟩⟩
  · simp [exec, execXfer, admit_hostOrIsr h, hb]
  · exact fun ab => slotValue_register
  · exact fun ab data x => slotValue_fifo

/-! ## DESEL -/

/-- A DESEL of the bracket's owner is the bracket's transaction, then the bus closed. -/
theorem exec_desel_open {s : State} (h : HostOrIsrMay s) (hb : s.port.busSelected = true)
    (ho : s.port.owner = s.env.agent) {ab : Byte} {data : List Byte} (hs : s.port.sent = ab :: data) :
    exec .desel s = onNext closeBus (closeEffect ab data s).out := by
  simp only [exec, execDesel, admit_hostOrIsr h, hb, not_true, if_false, ho, ne_eq, hs]
  cases closeEffect ab data s <;> rfl

theorem exec_desel_empty {s : State} (h : HostOrIsrMay s) (hb : s.port.busSelected = true)
    (ho : s.port.owner = s.env.agent) (hs : s.port.sent = []) : exec .desel s = .next (closeBus s) := by
  simp only [exec, execDesel, admit_hostOrIsr h, hb, not_true, if_false, ho, ne_eq, hs]

theorem closeEffect_badShape {s : State} {ab : Byte} {data : List Byte}
    (h : data = [] ∨ (addrOf ab ≠ s.cfg.regFifo ∧ data.length ≠ 1)) : closeEffect ab data s = .refused .badShape :=
  if_pos h

/-- A bracket of a legal length: at least one data byte, exactly one away from `REG_FIFO`. -/
theorem closeEffect_shape {s : State} {ab d : Byte} {ds : List Byte} (h : addrOf ab = s.cfg.regFifo ∨ ds = []) :
    ¬ (d :: ds = [] ∨ (addrOf ab ≠ s.cfg.regFifo ∧ (d :: ds).length ≠ 1)) := by
  rcases h with h | h <;> simp [h]

/-- The agents that a bracket's transaction takes effect for. -/
theorem mem_closers {s : State} {ab : Byte} (h : HostMay s ∨ (writeBit ab = false ∧ MayRead s (addrOf ab))) :
    s.env.agent ∈ (if writeBit ab then [Agent.host] else s.cfg.readers (addrOf ab)) := by
  split
  · rcases h with h | h
    · simp [h.1]
    · simp_all
  · exact mem_readers (h.elim .inl And.right)

theorem closeEffect_wrongAgent {s : State} {ab d : Byte} {ds : List Byte} (h : addrOf ab = s.cfg.regFifo ∨ ds = [])
    (ha : s.env.agent = .isr) (hOnly : writeBit ab = true ∨ s.cfg.hostOnly (addrOf ab) = true) :
    closeEffect ab (d :: ds) s = .refused .wrongAgent := by
  have hNot : s.env.agent ∉ (if writeBit ab then [Agent.host] else s.cfg.readers (addrOf ab)) := by
    split
    · simp [ha]
    · simp_all [Cfg.readers]
  exact (if_neg (closeEffect_shape h)).trans (if_pos hNot)

theorem closeEffect_unsettled {s : State} {ab d : Byte} {ds : List Byte} (h : addrOf ab = s.cfg.regFifo ∨ ds = [])
    (hMay : HostMay s ∨ (writeBit ab = false ∧ MayRead s (addrOf ab))) (hs : s.port.settlePending = true) :
    closeEffect ab (d :: ds) s = .raised (raise s.env.agent (.unsettledAccess (addrOf ab)) s) :=
  (if_neg (closeEffect_shape h)).trans ((if_neg (not_not.2 (mem_closers hMay))).trans (if_pos hs))

theorem closeEffect_read {s : State} {ab d : Byte} {ds : List Byte} (h : addrOf ab = s.cfg.regFifo ∨ ds = [])
    (hw : writeBit ab = false) (hMay : MayRead s (addrOf ab)) (hs : s.port.settlePending = false) :
    closeEffect ab (d :: ds) s =
      .done ()
        ((if addrOf ab = s.cfg.regFifo then fifoPop (ds.length + 1) s else readEffect (addrOf ab) s).sentFrame
          (ab :: d :: ds) (s.port.got.drop 1)) := by
  have hMem := mem_closers (ab := ab) (.inr ⟨hw, hMay⟩)
  refine (if_neg (closeEffect_shape h)).trans ((if_neg (not_not.2 hMem)).trans ?_)
  simp [hs, hw]

/-- The Host's write bracket is the register write or the FIFO write it spells. -/
theorem closeEffect_write {s t : State} {ab d : Byte} {ds : List Byte} (h : addrOf ab = s.cfg.regFifo ∨ ds = [])
    (hw : writeBit ab = true) (hMay : HostMay s) (hs : s.port.settlePending = false)
    (he : (if addrOf ab = s.cfg.regFifo then fifoPush (d :: ds) s else writeEffect (addrOf ab) d s) = .ok t) :
    closeEffect ab (d :: ds) s = .done () (t.sentFrame (ab :: d :: ds) []) := by
  refine (if_neg (closeEffect_shape h)).trans ((if_neg (not_not.2 (mem_closers (.inl hMay)))).trans ?_)
  simp only [hs, hw, Bool.false_eq_true, if_false, if_true, List.headD_cons, he]

theorem closeEffect_writeRefused {s : State} {ab d : Byte} {ds : List Byte} {r : Refusal}
    (h : addrOf ab = s.cfg.regFifo ∨ ds = []) (hw : writeBit ab = true) (hMay : HostMay s)
    (hs : s.port.settlePending = false)
    (he : (if addrOf ab = s.cfg.regFifo then fifoPush (d :: ds) s else writeEffect (addrOf ab) d s) = .error r) :
    closeEffect ab (d :: ds) s = .refused r := by
  refine (if_neg (closeEffect_shape h)).trans ((if_neg (not_not.2 (mem_closers (.inl hMay)))).trans ?_)
  simp only [hs, hw, Bool.false_eq_true, if_false, if_true, List.headD_cons, he]

theorem fifoPush_fits {s : State} {bytes : List Byte} (h : bytes.length ≤ s.cfg.maxPayload + 2) :
    fifoPush bytes s = .ok { s with chip := { s.chip with fifo := s.chip.fifo ++ bytes } } :=
  if_neg (by omega)

theorem fifoPush_tooLong {s : State} {bytes : List Byte} (h : s.cfg.maxPayload + 2 < bytes.length) :
    fifoPush bytes s = .error .burstTooLong :=
  if_pos h

/-- Settles O10, from what `closeEffect` does by the bracket's shape, its agent, the settle window and its direction. -/
theorem deselClosesTheBracket : Obligations.DeselClosesTheBracket := by
  refine fun s h => ⟨fun hb => ?_, fun hb ho => ⟨exec_desel_empty h hb ho, fun ab hs => ?_, fun ab d d' ds hs hf => ?_,
    fun ab d ds hs hShape => ⟨fun ha hOnly => ?_, fun hMay hp => ?_⟩, fun ab d hs hf hp => ⟨fun hw hMay => ?_,
    fun hw hMay => ?_⟩, fun ab d ds hs hf hMay hp => ⟨fun hw => ?_, fun hw hl => ?_, fun hw hl => ?_⟩⟩⟩
  · simp [exec, execDesel, admit_hostOrIsr h, hb]
  · rw [exec_desel_open h hb ho hs, closeEffect_badShape (.inl rfl), Tx.out, onNext]
  · rw [exec_desel_open h hb ho hs, closeEffect_badShape (.inr ⟨hf, by simp⟩), Tx.out, onNext]
  · rw [exec_desel_open h hb ho hs, closeEffect_wrongAgent hShape ha hOnly, Tx.out, onNext]
  · rw [exec_desel_open h hb ho hs, closeEffect_unsettled hShape hMay hp, Tx.out, onNext]
  · rw [exec_desel_open h hb ho hs, closeEffect_read (.inr rfl) hw hMay hp, if_neg hf, Tx.out, onNext]
  · cases he : writeEffect (addrOf ab) d s with
    | ok t => rw [exec_desel_open h hb ho hs, closeEffect_write (.inr rfl) hw hMay hp ((if_neg hf).trans he), Tx.out, onNext]
    | error r =>
      rw [exec_desel_open h hb ho hs, closeEffect_writeRefused (.inr rfl) hw hMay hp ((if_neg hf).trans he), Tx.out, onNext]
  · rw [exec_desel_open h hb ho hs, closeEffect_read (.inl hf) hw (.inl hMay) hp, if_pos hf, Tx.out, onNext]
  · rw [exec_desel_open h hb ho hs,
      closeEffect_write (.inl hf) hw hMay hp ((if_pos hf).trans (fifoPush_fits (bytes := d :: ds) hl)), Tx.out, onNext]
  · rw [exec_desel_open h hb ho hs,
      closeEffect_writeRefused (.inl hf) hw hMay hp ((if_pos hf).trans (fifoPush_tooLong (bytes := d :: ds) hl)), Tx.out, onNext]

/-! ## A write does not depend on the bracket it is made in -/

/-- `u` differs from `s` at most in the open bracket, the caller's results, the schedule, the draw counter and the record
`seen`. -/
structure AlikeButBracket (s u : State) : Prop where
  cfg : u.cfg = s.cfg
  chip : u.chip = s.chip
  latch : u.latch = s.latch
  pins : u.pins = s.pins
  settle : u.port.settlePending = s.port.settlePending
  faults : u.caller.faults = s.caller.faults
  bus : u.env.bus = s.env.bus

theorem AlikeButBracket.mode {s u : State} (e : AlikeButBracket s u) : u.mode? = s.mode? :=
  State.mode?_congr e.cfg (by rw [e.chip])

theorem AlikeButBracket.setReg {s u : State} (e : AlikeButBracket s u) (a : Addr) (v : Byte) :
    AlikeButBracket (s.setReg a v) (u.setReg a v) :=
  ⟨e.cfg, by simp only [State.setReg, State.storeReg, e.chip], e.latch, e.pins, e.settle, e.faults, e.bus⟩

/-- UpdatePins reads the configuration, the chip and the pins. -/
theorem updatePins_pins_congr {s u : State} (hc : u.cfg = s.cfg) (hh : u.chip = s.chip) (hp : u.pins = s.pins) :
    u.updatePins.pins = s.updatePins.pins := by
  have h0 := State.pinFn0_congr hc (congrArg Chip.regs hh) (congrArg Chip.hw hh)
  have h1 := State.pinFn1_congr hc (congrArg Chip.regs hh) (congrArg Chip.hw hh)
  simp only [State.updatePins, hp, h0, h1]

theorem AlikeButBracket.updatePins {s u : State} (e : AlikeButBracket s u) :
    AlikeButBracket s.updatePins u.updatePins :=
  ⟨e.cfg, e.chip, e.latch, updatePins_pins_congr e.cfg e.chip e.pins, e.settle, e.faults, e.bus⟩

theorem AlikeButBracket.clearHw {s u : State} (e : AlikeButBracket s u) (ev : Event) :
    AlikeButBracket (s.clearHw ev) (u.clearHw ev) :=
  AlikeButBracket.updatePins
    ⟨e.cfg, by simp only [State.setHw, e.chip], e.latch, e.pins, e.settle, e.faults, e.bus⟩

theorem AlikeButBracket.ite {s u s' u' : State} {p : Prop} [Decidable p] (h : AlikeButBracket s u)
    (k : AlikeButBracket s' u') : AlikeButBracket (if p then s else s') (if p then u else u') := by
  split
  · exact h
  · exact k

theorem AlikeButBracket.settleAfter {s u : State} (e : AlikeButBracket s u) (old : Option Mode) :
    AlikeButBracket (settleAfter old s) (settleAfter old u) := by
  unfold Sys2Proof.Machine.settleAfter
  rw [e.mode]
  exact .ite ⟨e.cfg, e.chip, e.latch, e.pins, rfl, e.faults, e.bus⟩ e

theorem AlikeButBracket.modeClears {s u : State} (e : AlikeButBracket s u) (old : Option Mode) :
    AlikeButBracket (modeClears old s) (modeClears old u) := by
  unfold Sys2Proof.Machine.modeClears
  rw [e.mode, e.cfg, e.chip]
  have hPs := AlikeButBracket.ite (p := old = some .transmit ∧ s.mode? ≠ some .transmit) (e.clearHw .ps) e
  have hTo := AlikeButBracket.ite (p := old = some .receive ∧ s.mode? ≠ some .receive) (hPs.clearHw .tmo) hPs
  exact .ite (.ite (hTo.clearHw .pr) hTo) e

theorem AlikeButBracket.writeOpmode {s u : State} (e : AlikeButBracket s u) (d : Byte) :
    AlikeButBracket (writeOpmode d s) (writeOpmode d u) := by
  unfold Sys2Proof.Machine.writeOpmode
  rw [e.mode, e.cfg]
  exact (((e.setReg _ d).settleAfter _).modeClears _).updatePins

/-- The outcomes of a write in two states that are alike: alike, or the same refusal. -/
def AlikeWrites : Except Refusal State → Except Refusal State → Prop
  | .ok t, .ok w => AlikeButBracket t w
  | .error r, .error r' => r = r'
  | _, _ => False

theorem AlikeWrites.ite {x y x' y' : Except Refusal State} {p : Prop} [Decidable p] (h : AlikeWrites x y)
    (k : AlikeWrites x' y') : AlikeWrites (if p then x else x') (if p then y else y') := by
  split
  · exact h
  · exact k

theorem AlikeButBracket.writeEffect {s u : State} (e : AlikeButBracket s u) (a : Addr) (d : Byte) :
    AlikeWrites (writeEffect a d s) (writeEffect a d u) := by
  unfold Sys2Proof.Machine.writeEffect
  rw [e.cfg]
  exact .ite rfl (.ite (.ite rfl (e.writeOpmode d)) (.ite (e.setReg a d).updatePins
    (.ite (.ite rfl (e.setReg a d)) e)))

/-! ## A raw write frame (vector V16) -/

/-- The Host has opened a raw bracket in `s` and sent `sent` so far. -/
structure RawBracket (s u : State) (sent : List Byte) : Prop where
  alike : AlikeButBracket s u
  may : HostMay u
  isOpen : u.port.busSelected = true
  owner : u.port.owner = u.env.agent
  sent : u.port.sent = sent

theorem rawBracket_sel {s : State} (h : HostMay s) (hp : PortReady s) :
    ∃ u : State, exec .sel s = .next u ∧ RawBracket s u [] :=
  ⟨_, exec_sel_closed (.inl h) hp.1, ⟨rfl, rfl, rfl, rfl, rfl, rfl, rfl⟩, h, rfl, rfl, rfl⟩

theorem RawBracket.xfer {s u : State} {sent : List Byte} (k : RawBracket s u sent) (b : Byte) :
    ∃ w : State, exec (.xfer b) u = .next w ∧ RawBracket s w (sent ++ [b]) := by
  obtain ⟨⟨hCfg, hChip, hLatch, hPins, hSettle, hFaults, hBus⟩, hMay, hOpen, hOwner, hSent⟩ := k
  refine ⟨_, exec_xfer_open (.inl hMay) hOpen hOwner b, ?_⟩
  rw [State.answer_host (by exact hMay.1)]
  exact ⟨⟨hCfg, hChip, hLatch, hPins, hSettle, hFaults, hBus⟩, hMay, hOpen, hOwner, congrArg (· ++ [b]) hSent⟩

/-- Settles O11: the raw bracket's DESEL makes the write WRREG makes, in a state that differs only in the bracket. -/
theorem rawWriteBracketEqualsWrreg : Obligations.RawWriteBracketEqualsWrreg := by
  intro s a d h hp ha raw
  obtain ⟨s1, hSel, k1⟩ := rawBracket_sel h hp
  obtain ⟨s2, hXfer1, k2⟩ := k1.xfer (addrByte true a)
  obtain ⟨u, hXfer2, hAlike, hu, hOpen, hOwner, hSent⟩ := k2.xfer d
  have hRaw : raw = exec .desel u := by simp only [raw, hSel, hXfer1, hXfer2, thenRun]
  have hWrreg : exec (.wrreg a d) s = _ := wrregOp_ready h hp ha
  have hDesel : raw = _ := hRaw.trans (exec_desel_open (data := [d]) (.inl hu) hOpen hOwner hSent)
  have hAddr : addrOf (addrByte true a) = a := addrOf_addrByte true a
  have hNotFifo : addrOf (addrByte true a) ≠ u.cfg.regFifo := by rw [hAddr, hAlike.cfg]; exact ha
  have hSettled : u.port.settlePending = false := by rw [hAlike.settle]; exact hp.2
  have hWrites := hAlike.writeEffect a d
  cases hs : writeEffect a d s with
  | ok t =>
    cases hw : writeEffect a d u with
    | error r => simp [AlikeWrites, hs, hw] at hWrites
    | ok w =>
      rw [hs, hw] at hWrites
      have e : AlikeButBracket t w := hWrites
      simp only [hs] at hWrreg
      rw [closeEffect_write (.inr rfl) (writeBit_addrByte true a) hu hSettled
        ((if_neg hNotFifo).trans (hAddr.symm ▸ hw)), Tx.out, onNext] at hDesel
      refine ⟨fun t' ht => ?_, fun r hr => ?_⟩
      · obtain rfl := Host.Outcome.next.inj (hWrreg.symm.trans ht)
        exact ⟨_, hDesel, e.chip, e.latch, e.pins, e.cfg, e.settle, rfl, by simp [e.bus], e.faults⟩
      · rw [hWrreg] at hr
        cases hr
  | error r =>
    cases hw : writeEffect a d u with
    | ok w => simp [AlikeWrites, hs, hw] at hWrites
    | error r' =>
      rw [hs, hw] at hWrites
      obtain rfl : r = r' := hWrites
      simp only [hs] at hWrreg
      rw [closeEffect_writeRefused (.inr rfl) (writeBit_addrByte true a) hu hSettled
        ((if_neg hNotFifo).trans (hAddr.symm ▸ hw)), Tx.out, onNext] at hDesel
      refine ⟨fun t' ht => ?_, fun q hr => ?_⟩
      · rw [hWrreg] at ht
        cases ht
      · exact hDesel.trans (hWrreg.symm.trans hr)

end Sys2Proof.Machine
end

section
/-! SUPPORT. Whole transactions: every one of the Host's begins with a bracket (R107, R310), and what the register and FIFO
accesses leave. -/

namespace Sys2Proof.Machine

/-! ## The rows built on transactions (R268) -/

theorem bracket_andThen {α β : Type} (ag : Agent) (a : Addr) (s : State) (k : Tx α) (f : α → State → Tx β) :
    (bracket ag a s k).andThen f = bracket ag a s (k.andThen f) := by
  rcases bracket_cases ag a s k with ⟨h, e⟩ | ⟨h, h', e⟩ | ⟨h, e⟩
  · rw [e, bracket_open h, Tx.andThen]
  · rw [e, bracket_unsettled h h', Tx.andThen]
  · rw [e, bracket_ready h]

theorem exec_setmode_host {s : State} (h : HostMay s) (m : Mode) :
    exec (setmodeInstr m) s =
      (rmw .host s.cfg.regOpmode (fun v => putField v s.cfg.modeMask (s.cfg.modeBits m)) s).out := by
  have hRow : exec (setmodeInstr m) s = setmodeOp m s := by cases m <;> rfl
  rw [hRow, setmodeOp, admit_host h [.host] (by simp), h.1]

theorem exec_toen_host {s : State} (h : HostMay s) (on : Bool) :
    (s.cfg.family = .h → exec (toenInstr on) s = (toenH on s).out) ∧
    (s.cfg.family = .s → exec (toenInstr on) s = (toenS s).out) := by
  have hRow : exec (toenInstr on) s = toenOp on s := by cases on <;> rfl
  rw [hRow, toenOp, admit_host h [.host] (by simp)]
  exact ⟨fun hf => by simp only [hf], fun hf => by simp only [hf]⟩

theorem exec_fifowr_host {s : State} (h : HostMay s) (bytes : List Byte) :
    exec (.fifowr bytes) s = (fifowr .host bytes s).out := by
  have hRow : exec (.fifowr bytes) s = fifowrOp bytes s := rfl
  rw [hRow, fifowrOp, admit_host h [.host] (by simp), h.1]

theorem exec_fiford_host {s : State} (h : HostMay s) (fill : List Byte) :
    exec (.fiford fill) s =
      (fiford .host fill s).outWith .bytes
        (fun t => .bytes ((List.range fill.length).map fun i => Config.freeByte (t.env.draws + i))) fill.length := by
  have hRow : exec (.fiford fill) s = fifordOp fill s := rfl
  rw [hRow, fifordOp, admit_host h [.host] (by simp), h.1]

theorem rdregOp_host {s : State} (h : HostMay s) {a : Addr} (ha : a ≠ s.cfg.regFifo) (d : Byte) :
    rdregOp a d s = (rdreg .host a d s).outWith .byte (fun t => .byte t.free8) 1 := by
  rw [rdregOp, if_neg ha, admit_host h _ (host_mem_readers _ _), h.1]

theorem wrregOp_host {s : State} (h : HostMay s) {a : Addr} (ha : a ≠ s.cfg.regFifo) (d : Byte) :
    wrregOp a d s = (wrreg .host a d s).out := by
  rw [wrregOp, if_neg ha, admit_host h [.host] (by simp), h.1]

theorem rdregOp_fifo (s : State) (d : Byte) : rdregOp s.cfg.regFifo d s = exec (.fiford [d]) s := if_pos rfl

theorem wrregOp_fifo (s : State) (d : Byte) : wrregOp s.cfg.regFifo d s = exec (.fifowr [d]) s := if_pos rfl

/-- The instructions built on transactions, with the register of the first one. -/
theorem transactionAddr_cases {c : Cfg} {i : Instr} {a : Addr} (h : transactionAddr c i = some a) :
    (∃ m, i = setmodeInstr m ∧ a = c.regOpmode) ∨ (∃ e, i = mapInstr e ∧ a = (mapField c e).1) ∨
    (∃ on, i = toenInstr on ∧ a = c.regPinmapB) ∨ (i = .pwrfull ∧ a = c.regPower) ∨
    (∃ bs, i = .fifowr bs ∧ a = c.regFifo) ∨ (∃ bs, i = .fiford bs ∧ a = c.regFifo) ∨
    (∃ d, readOf i = some (a, d)) ∨ ∃ d, writeOf i = some (a, d) := by
  cases i
  all_goals simp only [transactionAddr, readOf, writeOf, Option.orElse_some, Option.orElse_none, Option.map_some,
    Option.map_none, Option.some.injEq, reduceCtorEq] at h
  all_goals subst h
  case setmodeSleep => exact .inl ⟨.sleep, rfl, rfl⟩
  case setmodeStandby => exact .inl ⟨.standby, rfl, rfl⟩
  case setmodeFrequencySynth => exact .inl ⟨.frequencySynth, rfl, rfl⟩
  case setmodeTransmit => exact .inl ⟨.transmit, rfl, rfl⟩
  case setmodeReceive => exact .inl ⟨.receive, rfl, rfl⟩
  case mappr => exact .inr (.inl ⟨.pr, rfl, rfl⟩)
  case mapps => exact .inr (.inl ⟨.ps, rfl, rfl⟩)
  case mapto => exact .inr (.inl ⟨.tmo, rfl, rfl⟩)
  case toenOff => exact .inr (.inr (.inl ⟨false, rfl, rfl⟩))
  case toenOn => exact .inr (.inr (.inl ⟨true, rfl, rfl⟩))
  case pwrfull => exact .inr (.inr (.inr (.inl ⟨rfl, rfl⟩)))
  case fifowr bs => exact .inr (.inr (.inr (.inr (.inl ⟨bs, rfl, rfl⟩))))
  case fiford bs => exact .inr (.inr (.inr (.inr (.inr (.inl ⟨bs, rfl, rfl⟩)))))
  case rdreg | rdregOpmode | rdregVersion | rdregPower | rdregRssi | rdregPinmapA | rdregPinmapB | rdregIrq1 | rdregIrq2
      | rdregRxto1 | rdregRxto2 =>
    exact .inr (.inr (.inr (.inr (.inr (.inr (.inl ⟨_, rfl⟩))))))
  case wrreg | wrregOpmode | wrregVersion | wrregPower | wrregRssi | wrregPinmapA | wrregPinmapB | wrregIrq1 | wrregIrq2
      | wrregRxto1 | wrregRxto2 =>
    exact .inr (.inr (.inr (.inr (.inr (.inr (.inr ⟨_, rfl⟩))))))

/-- The outcome is that of a transaction of the Host which begins with a bracket at `a`. -/
def BeginsAt (a : Addr) (s : State) (o : Out State) : Prop :=
  (∃ k : Tx Unit, o = (bracket .host a s k).out) ∨
    ∃ (α : Type) (k : Tx α) (result : α → Result) (drawn : State → Result) (n : Nat),
      o = (bracket .host a s k).outWith result drawn n

theorem rmw_beginsAt (a : Addr) (f : Byte → Byte) (s : State) : BeginsAt a s (rmw .host a f s).out :=
  .inl ⟨_, congrArg Tx.out (bracket_andThen _ _ _ _ _)⟩

theorem toen_beginsAt {s : State} (h : HostMay s) (on : Bool) : BeginsAt s.cfg.regPinmapB s (exec (toenInstr on) s) := by
  cases hf : s.cfg.family
  · rw [(exec_toen_host h on).1 hf]
    exact .inl ⟨_, by rw [toenH, maptoTx, mapTx, rmw, h.1, rdreg, bracket_andThen, bracket_andThen]⟩
  · rw [(exec_toen_host h on).2 hf]
    exact .inl ⟨_, by rw [toenS, maptoTx, mapTx, rmw, h.1, rdreg, bracket_andThen, bracket_andThen]⟩

theorem fifowr_beginsAt {s : State} (h : HostMay s) (bs : List Byte) : BeginsAt s.cfg.regFifo s (exec (.fifowr bs) s) := by
  rw [exec_fifowr_host h]
  exact .inl ⟨_, rfl⟩

theorem fiford_beginsAt {s : State} (h : HostMay s) (bs : List Byte) : BeginsAt s.cfg.regFifo s (exec (.fiford bs) s) := by
  rw [exec_fiford_host h]
  exact .inr ⟨_, _, _, _, _, rfl⟩

theorem exec_beginsAt {s : State} {i : Instr} {a : Addr} (hi : transactionAddr s.cfg i = some a) (h : HostMay s) :
    BeginsAt a s (exec i s) := by
  rcases transactionAddr_cases hi with ⟨m, rfl, rfl⟩ | ⟨e, rfl, rfl⟩ | ⟨on, rfl, rfl⟩ | ⟨rfl, rfl⟩ | ⟨bs, rfl, rfl⟩ |
    ⟨bs, rfl, rfl⟩ | ⟨d, hr⟩ | ⟨d, hw⟩
  · rw [exec_setmode_host h]
    exact rmw_beginsAt _ _ s
  · rw [exec_map h]
    exact rmw_beginsAt _ _ s
  · exact toen_beginsAt h on
  · rw [exec_pwrfull_host h]
    exact .inl ⟨_, rfl⟩
  · exact fifowr_beginsAt h bs
  · exact fiford_beginsAt h bs
  · rw [exec_of_readOf hr]
    by_cases ha : a = s.cfg.regFifo
    · rw [ha, rdregOp_fifo]
      exact fiford_beginsAt h [d]
    · rw [rdregOp_host h ha]
      exact .inr ⟨_, _, _, _, _, rfl⟩
  · rw [exec_of_writeOf hw]
    by_cases ha : a = s.cfg.regFifo
    · rw [ha, wrregOp_fifo]
      exact fifowr_beginsAt h [d]
    · rw [wrregOp_host h ha]
      exact .inl ⟨_, rfl⟩

/-- Settles O23: the bracket every transaction begins with is refused while one is open. -/
theorem openBracketRefusesTransactions : Obligations.OpenBracketRefusesTransactions := by
  intro s i a hi h hOpen
  rcases exec_beginsAt hi h with ⟨k, e⟩ | ⟨α, k, result, drawn, n, e⟩
  · rw [e, bracket_open hOpen, Tx.out]
  · rw [e, bracket_open hOpen, Tx.outWith]

/-- Settles O22: in the settle window that bracket faults; a read then hands the Host draws as its result. -/
theorem unsettledAccessFaults : Obligations.UnsettledAccessFaults := by
  intro s i a hi h hClosed hSettle
  rcases exec_beginsAt hi h with ⟨k, e⟩ | ⟨α, k, result, drawn, n, e⟩
  · rw [bracket_unsettled hClosed hSettle, Tx.out] at e
    exact ⟨_, e, rfl, mem_insertFault _ _, rfl, rfl, rfl, rfl, rfl, rfl, rfl, rfl⟩
  · rw [bracket_unsettled hClosed hSettle, Tx.outWith, State.answer_host (by exact h.1)] at e
    exact ⟨_, e, rfl, mem_insertFault _ _, rfl, rfl, rfl, rfl, rfl, rfl, rfl, rfl⟩

/-! ## Register reads (R68, R123) and status reads (R66, R67) -/

theorem readEffect_plain {s : State} {a : Addr} (hf : a ≠ s.cfg.regFifo) (h1 : a ≠ s.cfg.regIrq1)
    (h2 : a ≠ s.cfg.regIrq2) : readEffect a s = s := by
  simp [readEffect, hf, h1, h2]

theorem readValue_rxto {s : State} (hc : s.cfg.wf = true) (hp : s.cfg.present = true) (hf : s.cfg.family = .h) {a : Addr}
    (ha : a = s.cfg.regRxto1 ∨ a = s.cfg.regRxto2) : readValue a s = s.reg a := by
  simp [readValue, rxto_ne hc hf ha, ha, hp, hf]

/-- Settles O14: the byte is `readValue`, and away from the FIFO and the status registers a read has no effect. -/
theorem registerReadsReturnAndKeep : Obligations.RegisterReadsReturnAndKeep := by
  intro s i a d hc hi hp hf h1 h2
  rw [exec_of_readOf hi]
  refine ⟨fun hMay => ⟨readValue a s, ?_, fun ha => ?_, fun hPresent => ⟨fun ha => ?_, fun ha => ?_, fun hFam ha => ?_⟩⟩,
    fun hIsr hOnly => rdregOp_hostOnly hIsr ?_ d⟩
  · rw [rdregOp_ready hMay hp hf, readEffect_plain hf h1 h2]
  · rw [ha, readValue_version hc]
  · rw [ha, readValue_rssi hc hPresent]
  · rcases ha with rfl | ha
    · exact readValue_opmode hc hPresent
    · exact readValue_pinmap hc hPresent ha
  · exact readValue_rxto hc hPresent hFam ha
  · rcases hOnly with h | h | h | ⟨hFam, h | h⟩ <;> simp [Cfg.hostOnly, *]

theorem irq_ne_fifo {c : Cfg} (hc : c.wf = true) (k : StatusReg) : c.regIrq k ≠ c.regFifo := by
  cases k
  · exact (irq_ne hc).1
  · exact (irq_ne hc).2.1

theorem pinsUpdated_updatePins {s u : State} (hp : u.pins = s.pins) : PinsUpdated s u.updatePins :=
  ⟨rfl, rfl, by simp [hp], by rw [← hp]; rfl⟩

/-- Settles O15: the byte is the status view; under family S the effect clears the flags of that register and updates the
pins. -/
theorem statusReadsReturnTheFlags : Obligations.StatusReadsReturnTheFlags := by
  intro s i k d hc hi h hp
  have hRead := rdregOp_ready (d := d) (mayRead_irq hc h k) hp (irq_ne_fifo hc k)
  rw [readEffect_irq hc] at hRead
  rw [exec_of_readOf hi]
  refine ⟨readValue (s.cfg.regIrq k) s, _, hRead, fun hPresent => ?_, fun hFam => ?_, fun hFam => ?_⟩
  · rw [readValue_irq hc hPresent]
    exact ⟨fun e => statusView_event hc _ k e, statusView_crc _ k⟩
  · rw [statusEffect_h hFam]
  · rw [statusEffect_s hFam]
    exact ⟨fun e => hwAfterRead_get k s e, rfl, rfl, rfl, rfl, rfl, pinsUpdated_updatePins rfl, rfl⟩

/-! ## Register writes (R124) -/

/-- What a write of the mode register leaves (R124, R141, R252, R256): the stored byte, the settle bit, the flags and the
pins; nothing else changes. -/
structure OpmodeWritten (s t : State) (d : Byte) (m : Mode) : Prop where
  stored : t.reg s.cfg.regOpmode = d
  mode : t.mode? = some m
  others : ∀ a, a ≠ s.cfg.regOpmode → t.reg a = s.reg a
  regsWf : Memory.wf t.chip.regs = true
  port : t.port = { s.port with settlePending := decide (s.mode? = some .sleep ∧ m ≠ .sleep) }
  chip : t.chip = { s.chip with regs := t.chip.regs, hw := t.chip.hw }
  undisturbed : s.cfg.autoClear = .draw ∨ s.cfg.family = .s → t.chip.hw = s.chip.hw ∧ PinsUpdated s t
  cleared : DatasheetClears s.cfg → t.chip.hw = hwAfterMode s m
  noRequest : PinsCurrent s → t.pins.irqPend = s.pins.irqPend
  requestKept : s.pins.irqPend = true → t.pins.irqPend = true
  level0 : t.pins.level0 = t.pinFn0
  level1 : t.pins.level1 = t.pinFn1
  inIsr : t.pins.inIsr = s.pins.inIsr
  cfg : t.cfg = s.cfg
  latch : t.latch = s.latch
  caller : t.caller = s.caller
  env : t.env = s.env

theorem setReg_opmode_mode {s : State} (hm : Memory.wf s.chip.regs = true) {d : Byte} {m : Mode}
    (hd : s.cfg.modeOf d = some m) : (s.setReg s.cfg.regOpmode d).mode? = some m := by
  simp only [State.mode?, State.setReg_cfg, State.reg_setReg_same hm, hd]

/-- Without the deterministic clears a mode write is the store, the settle bit and UpdatePins. -/
theorem writeOpmode_of_draw {s : State} (h : s.cfg.autoClear = .draw ∨ s.cfg.family = .s) (d : Byte) :
    writeOpmode d s = (settleAfter s.mode? (s.setReg s.cfg.regOpmode d)).updatePins := by
  rw [writeOpmode, modeClears_of_draw (by simpa using h)]

theorem writeOpmode_written {s : State} (hc : s.cfg.wf = true) (hm : Memory.wf s.chip.regs = true) (hp : PortReady s)
    {d : Byte} {m : Mode} (hd : s.cfg.modeOf d = some m) : OpmodeWritten s (writeOpmode d s) d m := by
  have hFell := PinsFell.writeOpmode s d
  obtain ⟨hFn0, hFn1⟩ := setReg_opmode_pinFn hc d
  have hCur (h : PinsCurrent s) : PinsCurrent (settleAfter s.mode? (s.setReg s.cfg.regOpmode d)) := by
    constructor
    · rw [State.pinFn0_congr (s := s.setReg s.cfg.regOpmode d) (by simp) (by simp) (by simp), hFn0]
      simpa using h.1
    · rw [State.pinFn1_congr (s := s.setReg s.cfg.regOpmode d) (by simp) (by simp) (by simp), hFn1]
      simpa using h.2
  constructor
  case stored => rw [writeOpmode_reg, State.reg_setReg_same hm]
  case mode => rw [writeOpmode_mode hm, hd]
  case others =>
    intro a ha
    rw [writeOpmode_reg, State.reg_setReg_other _ _ ha]
  case regsWf =>
    rw [writeOpmode_regs]
    exact State.setReg_wf hm _ _
  case port => exact writeOpmode_port hm hp hd
  case chip =>
    cases ht : (writeOpmode d s).chip
    have e1 := writeOpmode_chip_crcOk s d
    have e2 := writeOpmode_chip_rssiRaw s d
    have e3 := writeOpmode_chip_fifo s d
    have e4 := writeOpmode_chip_outputPower s d
    simp_all
  case undisturbed =>
    intro h
    rw [writeOpmode_of_draw h]
    exact ⟨by simp, pinsUpdated_updatePins (by simp)⟩
  case cleared =>
    intro h
    have hClears := modeClears_hw (s := settleAfter s.mode? (s.setReg s.cfg.regOpmode d)) (old := s.mode?) (m := m)
      (by simpa using h)
      ((State.mode?_congr (s := s.setReg s.cfg.regOpmode d) (by simp) (by simp)).trans (setReg_opmode_mode hm hd))
    rw [writeOpmode, State.updatePins_chip, hClears]
    simp [hwAfterMode]
  case noRequest =>
    intro h
    rw [(hFell.irqPend (hCur h)).2]
    simp
  case requestKept =>
    intro h
    exact hFell.kept (by simpa using h)
  case level0 => rfl
  case level1 => rfl
  case inIsr =>
    rw [hFell.inIsr]
    simp
  case cfg => simp
  case latch => simp
  case caller => simp
  case env => simp

/-- Settles O16: the admitted write of a legal pattern is `writeOpmode` and the frame recorded. -/
theorem modeRegisterWrites : Obligations.ModeRegisterWrites := by
  intro s i d hc hm hi hHost hp
  have hFifo := (opmode_ne hc).1
  refine ⟨fun m hd => ?_, fun hd => ?_⟩
  · have hOk : writeEffect s.cfg.regOpmode d s = .ok (writeOpmode d s) := by rw [writeEffect_opmode hc, hd]; rfl
    have w := writeOpmode_written hc hm hp hd
    exact ⟨_, exec_write_ok hi hHost hp hFifo hOk, w.stored, w.mode, w.others, w.port, w.chip, w.undisturbed, w.cleared,
      w.noRequest, w.requestKept, w.level0, w.level1, w.inIsr, w.cfg, w.latch, w.caller, by simp [State.sentFrame]⟩
  · refine exec_write_refused hi hHost hp hFifo ?_
    rw [writeEffect_opmode hc, hd]
    rfl

theorem writeEffect_undecoded {s : State} {a : Addr} (hA : a ≠ s.cfg.regPinmapA) (hB : a ≠ s.cfg.regPinmapB)
    (h1 : a ≠ s.cfg.regRxto1) (h2 : a ≠ s.cfg.regRxto2) (hd : a ∉ s.cfg.decoded) (d : Byte) :
    writeEffect a d s = .ok s := by
  simp only [Cfg.decoded, List.mem_append, List.mem_cons, List.not_mem_nil, or_false, not_or] at hd
  obtain ⟨⟨-, hOpmode, hVersion, hPower, hRssi, hIrq1, hIrq2⟩, -⟩ := hd
  simp [writeEffect, hOpmode, hVersion, hPower, hRssi, hIrq1, hIrq2, hA, hB, h1, h2]

/-- Settles O17, from the write effect of each register. -/
theorem plainRegisterWrites : Obligations.PlainRegisterWrites := by
  intro s i a d hc hi hHost hp
  refine ⟨fun ha => ?_, fun hf ha => ?_, fun hA hB h1 h2 hd => ?_⟩
  · exact exec_write_ok hi hHost hp (pinmap_ne hc ha).1 (writeEffect_pinmap hc ha d)
  · exact exec_write_ok hi hHost hp (rxto_ne hc hf ha).1 (writeEffect_rxto hc hf ha d)
  · have hFifo : a ≠ s.cfg.regFifo := fun e => hd (e ▸ regFifo_mem_decoded s.cfg)
    exact exec_write_ok hi hHost hp hFifo (writeEffect_undecoded hA hB h1 h2 hd d)

end Sys2Proof.Machine
end

section
/-! SUPPORT. The FIFO accesses: FIFOWR and FIFORD (R125, R126, R252). -/

namespace Sys2Proof.Machine

theorem exec_of_writeOf_fifo {i : Instr} {d : Byte} {s : State} (hi : writeOf i = some (s.cfg.regFifo, d)) :
    exec i s = exec (.fifowr [d]) s := by
  rw [exec_of_writeOf hi, wrregOp_fifo]

theorem exec_of_readOf_fifo {i : Instr} {d : Byte} {s : State} (hi : readOf i = some (s.cfg.regFifo, d)) :
    exec i s = exec (.fiford [d]) s := by
  rw [exec_of_readOf hi, rdregOp_fifo]

theorem fifowr_ready {s : State} (hp : PortReady s) (ag : Agent) {bytes : List Byte}
    (hl : bytes.length ≤ s.cfg.maxPayload + 2) :
    fifowr ag bytes s =
      .done ()
        (({ s with chip := { s.chip with fifo := s.chip.fifo ++ bytes } } : State).sentFrame
          (addrByte true s.cfg.regFifo :: bytes) []) := by
  rw [fifowr, bracket_ready hp, fifoPush_fits hl]

theorem fifowr_tooLong {s : State} (hp : PortReady s) (ag : Agent) {bytes : List Byte}
    (hl : s.cfg.maxPayload + 2 < bytes.length) : fifowr ag bytes s = .refused .burstTooLong := by
  rw [fifowr, bracket_ready hp, fifoPush_tooLong hl]

/-- Settles O19: one FIFO write of the Host, by the settle bit and the length of the burst. -/
theorem fifowrPushesItsBytes : Obligations.FifowrPushesItsBytes := by
  intro s bytes h hClosed
  rw [exec_fifowr_host h]
  refine ⟨fun hSettle => ?_, fun hSettled hl => ?_, fun hSettled hl => ?_, fun i d hi => exec_of_writeOf_fifo hi⟩
  · rw [fifowr_unsettled hClosed hSettle, Tx.out]
  · rw [fifowr_ready ⟨hClosed, hSettled⟩ _ hl, Tx.out]
  · rw [fifowr_tooLong ⟨hClosed, hSettled⟩ _ hl, Tx.out]

/-! ## FIFORD -/

/-- A pop that empties the FIFO under AUTOCLEAR = datasheet clears PayloadReady (R252). -/
abbrev PopClears (n : Nat) (s : State) : Prop := DatasheetClears s.cfg ∧ s.chip.fifo ≠ [] ∧ s.chip.fifo.drop n = []

theorem fifoPop_clears {n : Nat} {s : State} (h : PopClears n s) :
    fifoPop n s = ({ s with chip := { s.chip with fifo := s.chip.fifo.drop n } } : State).clearHw .pr :=
  if_pos ⟨h.1.1, h.1.2, h.2.1, h.2.2⟩

theorem fifoPop_quiet {n : Nat} {s : State} (h : ¬ PopClears n s) :
    fifoPop n s = { s with chip := { s.chip with fifo := s.chip.fifo.drop n } } :=
  if_neg fun ⟨h1, h2, h3, h4⟩ => h ⟨⟨h1, h2⟩, h3, h4⟩

theorem fifoPop_fifo (n : Nat) (s : State) : (fifoPop n s).chip.fifo = s.chip.fifo.drop n := by
  rw [fifoPop_chip]

theorem fifoSlots_length (n : Nat) (s : State) : (fifoSlots n s).length = n := by
  simp [fifoSlots]

theorem fifoSlots_getElem {s : State} {n k : Nat} {b : Byte} (hp : s.cfg.present = true) (hk : k < n)
    (hb : s.chip.fifo[k]? = some b) : (fifoSlots n s)[k]? = some b := by
  simp [fifoSlots, hk, fifoSlot, hp, hb]

theorem exec_fiford_ready {s : State} (h : HostMay s) (hp : PortReady s) (fill : List Byte) :
    exec (.fiford fill) s =
      .next
        { ((fifoPop fill.length s).drew fill.length).sentFrame (addrByte false s.cfg.regFifo :: fill)
            (fifoSlots fill.length s) with
          caller := { s.caller with result := .bytes (fifoSlots fill.length s) } } :=
  fifordOp_ready h hp fill

/-- Settles O20: the bytes are the slots' values, and the pop clears PayloadReady exactly where R252 says. -/
theorem fifordPopsTheOldest : Obligations.FifordPopsTheOldest := by
  refine fun s fill h hp => ⟨fun i d hi => exec_of_readOf_fifo hi, ?_⟩
  refine ⟨_, _, exec_fiford_ready h hp fill, rfl, fifoSlots_length _ s, fun n b hPresent hn hb =>
    fifoSlots_getElem hPresent hn hb, fifoPop_fifo _ s, ?_, fun hd hNe hNil => ?_, fun hQuiet => ?_, fifoPop_cfg s _,
    fifoPop_latch s _, fifoPop_port s _, ?_⟩
  · simp [fifoPop_chip]
  · have hClears : PopClears fill.length s := ⟨hd, hNe, by simpa [fifoPop_chip] using hNil⟩
    simp only [fifoPop_clears hClears]
    exact ⟨rfl, pinsUpdated_updatePins rfl⟩
  · have hNot : ¬ PopClears fill.length s := by
      rintro ⟨hd, hNe, hNil⟩
      rcases hQuiet with q | q | q
      · exact q hd
      · exact hNe q
      · exact q (by simpa [fifoPop_chip] using hNil)
    simp only [fifoPop_quiet hNot]
    exact ⟨rfl, rfl⟩
  · simp [State.sentFrame, State.drew]

/-- A slot past `n` bytes is the slot of a FIFO, and of a draw counter, `n` further on. -/
theorem fifoSlot_add {s t : State} {n : Nat} (hc : t.cfg = s.cfg) (hf : t.chip.fifo = s.chip.fifo.drop n)
    (hd : t.env.draws = s.env.draws + n) (i : Nat) : fifoSlot t i = fifoSlot s (n + i) := by
  simp only [fifoSlot, hc, hf, hd, List.getElem?_drop, Nat.add_assoc]

theorem fifoSlots_add {s t : State} {n m : Nat} (hc : t.cfg = s.cfg) (hf : t.chip.fifo = s.chip.fifo.drop n)
    (hd : t.env.draws = s.env.draws + n) : fifoSlots (n + m) s = fifoSlots n s ++ fifoSlots m t := by
  have hSlot : ∀ i, fifoSlot t i = fifoSlot s (n + i) := fifoSlot_add hc hf hd
  simp [fifoSlots, List.range_add, hSlot]

/-- A pop leaves the chip and the pins that its two parts leave, where the first of them does not empty the FIFO. -/
theorem fifoPop_add {s t : State} {n m : Nat} (hl : n < s.chip.fifo.length) (hc : t.cfg = s.cfg)
    (ht : t.chip = (fifoPop n s).chip) (hp : t.pins = (fifoPop n s).pins) :
    (fifoPop m t).chip = (fifoPop (n + m) s).chip ∧ (fifoPop m t).pins = (fifoPop (n + m) s).pins := by
  have hLeft : s.chip.fifo.drop n ≠ [] := by simpa using hl
  have hNe : s.chip.fifo ≠ [] := fun e => by simp [e] at hl
  rw [fifoPop_quiet fun h => hLeft h.2.2] at ht hp
  have hIff : PopClears m t ↔ PopClears (n + m) s := by
    simp only [PopClears, hc, ht, List.drop_drop, ne_eq, hLeft, hNe, not_false_eq_true, true_and]
  by_cases hClears : PopClears (n + m) s
  · rw [fifoPop_clears hClears, fifoPop_clears (hIff.2 hClears)]
    refine ⟨by simp [ht], updatePins_pins_congr hc ?_ hp⟩
    simp only [State.setHw, ht, List.drop_drop]
  · rw [fifoPop_quiet hClears, fifoPop_quiet fun h => hClears (hIff.1 h)]
    exact ⟨by simp [ht], hp⟩

/-- What an admitted FIFORD of a ready port leaves. -/
structure FifoRead (fill : List Byte) (s t : State) : Prop where
  cfg : t.cfg = s.cfg
  latch : t.latch = s.latch
  port : t.port = s.port
  chip : t.chip = (fifoPop fill.length s).chip
  pins : t.pins = (fifoPop fill.length s).pins
  caller : t.caller = { s.caller with result := .bytes (fifoSlots fill.length s) }
  env : t.env = ((s.drew fill.length).sentFrame (addrByte false s.cfg.regFifo :: fill) (fifoSlots fill.length s)).env

theorem exec_fiford_read {s : State} (h : HostMay s) (hp : PortReady s) (fill : List Byte) :
    ∃ t : State, exec (.fiford fill) s = .next t ∧ FifoRead fill s t :=
  ⟨_, exec_fiford_ready h hp fill, fifoPop_cfg s _, fifoPop_latch s _, fifoPop_port s _, rfl, rfl, rfl,
    by simp [State.sentFrame, State.drew]⟩

theorem FifoRead.hostMay {fill : List Byte} {s t : State} (r : FifoRead fill s t) (h : HostMay s) : HostMay t :=
  ⟨by rw [r.env]; exact h.1, by rw [r.caller]; exact h.2⟩

theorem FifoRead.portReady {fill : List Byte} {s t : State} (r : FifoRead fill s t) (h : PortReady s) : PortReady t := by
  rw [PortReady, r.port]
  exact h

/-- Settles O21: slots and pops add up, and the first read leaves bytes for the second. -/
theorem fifordSplits : Obligations.FifordSplits := by
  intro s x y h hp hl hy
  have hLeft : x.length < s.chip.fifo.length := by
    have := List.length_pos_iff.2 hy
    omega
  obtain ⟨t, ht, r⟩ := exec_fiford_read h hp x
  obtain ⟨u, hu, q⟩ := exec_fiford_read (r.hostMay h) (r.portReady hp) y
  obtain ⟨v, hv, w⟩ := exec_fiford_read h hp (x ++ y)
  obtain ⟨hChip, hPins⟩ := fifoPop_add (m := y.length) hLeft r.cfg r.chip r.pins
  have hDraws : t.env.draws = s.env.draws + x.length := by rw [r.env]; rfl
  have hSlots := fifoSlots_add (m := y.length) r.cfg (by rw [r.chip, fifoPop_fifo]) hDraws
  rw [← List.length_append] at hChip hPins hSlots
  refine ⟨_, _, t, u, v, ht, hu, hv, by rw [r.caller], by rw [q.caller], ?_, ?_, ?_, ?_, ?_⟩
  · rw [w.caller, hSlots]
  · rw [q.chip, w.chip, hChip]
  · rw [q.pins, w.pins, hPins]
  · rw [q.latch, r.latch, w.latch]
  · rw [q.port, r.port, w.port]

end Sys2Proof.Machine
end

section
/-! SUPPORT. The read-modify-writes of the Host: SETMODE, MAP and TOEN, whatever falls into their gaps (R72, R140, R176,
R191, R192). -/

namespace Sys2Proof.Machine

/-! ## SETMODE -/

/-- SETMODE is the mode write of the replaced byte, on the state the gap left. -/
theorem exec_setmode_written {s : State} (m : Mode) (hc : s.cfg.wf = true) (hm : Memory.wf s.chip.regs = true)
    (h : HostMay s) (hp : PortReady s) :
    ∃ w : State,
      exec (setmodeInstr m) s =
        .next (w.sentFrame
          [addrByte true s.cfg.regOpmode, putField (readValue s.cfg.regOpmode s) s.cfg.modeMask (s.cfg.modeBits m)] []) ∧
      OpmodeWritten (atGap s.cfg.regOpmode s) w
        (putField (readValue s.cfg.regOpmode s) s.cfg.modeMask (s.cfg.modeBits m)) m := by
  have k := atGap_kept s.cfg.regOpmode s
  exact ⟨_, exec_setmode m hc h hp, writeOpmode_written (by rw [k.cfg]; exact hc) (by rw [k.regs]; exact hm) (k.ready hp)
    (modeOf_setmodeByte_atGap hc s.cfg.regOpmode (readValue s.cfg.regOpmode s) m)⟩

/-- Settles O24: the mode write on the state the gap left, whose Host side is that of the state before. -/
theorem setmodeReplacesTheModeField : Obligations.SetmodeReplacesTheModeField := by
  intro s m hc hm h hp r g v
  have k : HostSideKept s g := atGap_kept s.cfg.regOpmode s
  have hMode : g.mode? = s.mode? := atGap_mode s.cfg.regOpmode s
  obtain ⟨w, hExec, hw⟩ := exec_setmode_written m hc hm h hp
  have hw : OpmodeWritten g w v m := hw
  have hStored : w.reg s.cfg.regOpmode = v := by rw [← k.cfg]; exact hw.stored
  refine ⟨readValue_opmode hc, _, hExec, hStored, hw.mode, ?_, fun a ha => ?_, ?_, hw.chip, fun hd => ?_, fun hd => ?_,
    hw.noRequest, hw.requestKept, hw.level0, hw.level1, hw.inIsr, hw.cfg.trans k.cfg, hw.latch, hw.caller, ?_⟩
  · exact (congrArg (· &&& ~~~ s.cfg.modeMask) hStored).trans (putField_keeps r _ _ ((cfgFacts hc).modeIn m))
  · exact (hw.others a (by rw [k.cfg]; exact ha)).trans (State.reg_congr k.regs a)
  · refine hw.port.trans ?_
    rw [k.port, hMode]
  · exact hw.undisturbed (by rw [k.cfg]; exact hd)
  · exact hw.cleared (by rw [k.cfg]; exact hd)
  · simp only [State.sentFrame, hw.env]
    rfl

/-! ## MAP -/

/-- The function of the pin that a MAP instruction maps its event onto (R173 to R175, R255). -/
def State.mapPinFn (s : State) : Event → Bool
  | .pr | .ps => s.pinFn0
  | .tmo => s.pinFn1

/-- A pin function follows the event mapped onto its pin (R255). -/
theorem mapPinFn_of_mapped {s : State} (hc : s.cfg.wf = true) (e : Event)
    (h : s.reg (mapField s.cfg e).1 &&& (mapField s.cfg e).2.1 = (mapField s.cfg e).2.2) :
    s.mapPinFn e = s.chip.hw.get e := by
  cases e
  · exact pinFn0_of_pr h
  · exact pinFn0_of_ps (cfgFacts hc).selDistinct h
  · exact pinFn1_of_to h

theorem atGap_nil {a : Addr} {s : State} (h : s.env.gaps = []) :
    atGap a s = (s.drew 1).sentFrame [addrByte false a, 0#8] [readValue a s] :=
  preempt_nil (by simpa using h)

/-- Settles O33: the map write on the state the gap left; a low pin whose function is now a raised flag rises. -/
theorem mapReplacesThePinField : Obligations.MapReplacesThePinField := by
  intro s e hc hm h hp a r v g
  have ha : a = s.cfg.regPinmapA ∨ a = s.cfg.regPinmapB := mapField_addr s.cfg e
  have k : HostSideKept s g := atGap_kept a s
  have hSel := mapField_sel hc e
  have hStored : (g.setReg a v).reg a = v := State.reg_setReg_same (by rw [k.regs]; exact hm) a v
  have hExec : exec (mapInstr e) s = .next ((g.setReg a v).updatePins.sentFrame [addrByte true a, v] []) := by
    rw [exec_map h, mapTx_ready hc hp ha, Tx.out]
  have hField : (g.setReg a v).reg a &&& (mapField s.cfg e).2.1 = (mapField s.cfg e).2.2 := by
    rw [hStored]
    exact putField_selects r _ _ hSel
  refine ⟨fun hPresent => readValue_pinmap hc hPresent ha, hExec, ?_, hField, fun b hb => ?_, fun hGaps hFlag hLow => ?_⟩
  · rw [hStored]
    exact putField_keeps r _ _ hSel
  · rw [State.reg_setReg_other _ _ hb]
    exact State.reg_congr k.regs b
  · refine ⟨_, hExec, ?_⟩
    have hFn := mapPinFn_of_mapped (s := g.setReg a v) (by rw [State.setReg_cfg, k.cfg]; exact hc) e
      (by rw [State.setReg_cfg, k.cfg]; exact hField)
    have hGap : g = (s.drew 1).sentFrame [addrByte false a, 0#8] [r] := atGap_nil hGaps
    rw [hGap] at hFn ⊢
    cases e
    · exact ⟨updatePins_rise0 hLow (hFn.trans hFlag), hFn.trans hFlag⟩
    · exact ⟨updatePins_rise0 hLow (hFn.trans hFlag), hFn.trans hFlag⟩
    · exact ⟨updatePins_rise1 hLow (hFn.trans hFlag), hFn.trans hFlag⟩

/-! ## TOEN -/

/-- `t` is `s` with byte `v` stored at `a`, as far as the Host's side goes. -/
structure Stored (a : Addr) (v : Byte) (s t : State) : Prop where
  cfg : t.cfg = s.cfg
  stored : t.reg a = v
  others : ∀ b, b ≠ a → t.reg b = s.reg b
  regsWf : Memory.wf t.chip.regs = true
  power : t.chip.outputPower = s.chip.outputPower
  port : t.port = s.port
  hostPos : t.caller.hostPos = s.caller.hostPos
  result : t.caller.result = s.caller.result

/-- A store after a gap: the gap wrote no register. -/
theorem stored_of_kept {s g t : State} {a : Addr} {v : Byte} (k : HostSideKept s g) (hm : Memory.wf s.chip.regs = true)
    (hCfg : t.cfg = g.cfg) (hChip : t.chip = (g.setReg a v).chip) (hPort : t.port = g.port) (hCaller : t.caller = g.caller) :
    Stored a v s t := by
  have hmg : Memory.wf g.chip.regs = true := by rw [k.regs]; exact hm
  have hReg := State.reg_congr (congrArg Chip.regs hChip)
  refine ⟨hCfg.trans k.cfg, (hReg a).trans (State.reg_setReg_same hmg a v), fun b hb => ?_, ?_, ?_, hPort.trans k.port,
    by rw [hCaller, k.hostPos], by rw [hCaller, k.result]⟩
  · rw [hReg, State.reg_setReg_other _ _ hb, State.reg_congr k.regs]
  · rw [hChip]
    exact State.setReg_wf hmg a v
  · rw [hChip]
    exact k.power

theorem Stored.ready {a : Addr} {v : Byte} {s t : State} (k : Stored a v s t) (h : PortReady s) : PortReady t := by
  simpa only [PortReady, k.port] using h

/-- The byte TOEN writes to the pin-map register of pin 1. -/
def toenByte (s : State) : Byte := putField (readValue s.cfg.regPinmapB s) s.cfg.pin1Mask s.cfg.pin1SelTo

/-- What MAPTO leaves. -/
def afterMapto (s : State) : State :=
  ((atGap s.cfg.regPinmapB s).setReg s.cfg.regPinmapB (toenByte s)).updatePins.sentFrame
    [addrByte true s.cfg.regPinmapB, toenByte s] []

theorem maptoTx_ready {s : State} (hc : s.cfg.wf = true) (hp : PortReady s) (ag : Agent) :
    maptoTx ag s = .done () (afterMapto s) :=
  mapTx_ready hc hp (.inr rfl) ag _ _

theorem afterMapto_stored {s : State} (hm : Memory.wf s.chip.regs = true) :
    Stored s.cfg.regPinmapB (toenByte s) s (afterMapto s) :=
  stored_of_kept (atGap_kept _ _) hm rfl rfl rfl rfl

/-- What the write of a duration register leaves after a gap. -/
def afterDuration (a : Addr) (v : Byte) (s : State) : State := ((preempt s).setReg a v).sentFrame [addrByte true a, v] []

theorem wrreg_duration {s : State} (hc : s.cfg.wf = true) (hf : s.cfg.family = .h) (hp : PortReady s) {a : Addr}
    (ha : a = s.cfg.regRxto1 ∨ a = s.cfg.regRxto2) (ag : Agent) (v : Byte) :
    wrreg ag a v (preempt s) = .done () (afterDuration a v s) := by
  have k := preempt_kept s
  exact wrreg_rxto (by rw [k.cfg]; exact hc) (by rw [k.cfg]; exact hf) (k.ready hp) (by rw [k.cfg]; exact ha) ag v

theorem afterDuration_stored {s : State} (hm : Memory.wf s.chip.regs = true) (a : Addr) (v : Byte) :
    Stored a v s (afterDuration a v s) :=
  stored_of_kept (preempt_kept s) hm rfl rfl rfl rfl

/-- The byte TOEN writes to a duration register: its on value, or 0x00 (R191). -/
def durationByte (on : Bool) (v : Byte) : Byte := if on then v else 0x00#8

/-- What TOEN leaves under family H. -/
def afterToenH (on : Bool) (s : State) : State :=
  afterDuration s.cfg.regRxto2 (durationByte on s.cfg.toOn2)
    (afterDuration s.cfg.regRxto1 (durationByte on s.cfg.toOn1) (afterMapto s))

theorem toenH_ready {s : State} (hc : s.cfg.wf = true) (hm : Memory.wf s.chip.regs = true) (hf : s.cfg.family = .h)
    (hp : PortReady s) (on : Bool) : toenH on s = .done () (afterToenH on s) := by
  have k1 := afterMapto_stored hm
  have k2 := afterDuration_stored k1.regsWf s.cfg.regRxto1 (durationByte on s.cfg.toOn1)
  have hCfg := k2.cfg.trans k1.cfg
  have w1 := wrreg_duration (s := afterMapto s) (by rw [k1.cfg]; exact hc) (by rw [k1.cfg]; exact hf) (k1.ready hp)
    (.inl (congrArg Cfg.regRxto1 k1.cfg).symm) s.env.agent (durationByte on s.cfg.toOn1)
  have w2 := wrreg_duration (by rw [hCfg]; exact hc) (by rw [hCfg]; exact hf) (k2.ready (k1.ready hp))
    (.inr (congrArg Cfg.regRxto2 hCfg).symm) s.env.agent (durationByte on s.cfg.toOn2)
  rw [toenH, maptoTx_ready hc hp]
  exact (congrArg (fun t => Tx.andThen t fun _ u =>
    wrreg s.env.agent s.cfg.regRxto2 (durationByte on s.cfg.toOn2) (preempt u)) w1).trans w2

/-- With nothing in its gaps MAPTO changes the map register and the pins alone, and puts two frames on the port. -/
theorem afterMapto_nil {s : State} (h : s.env.gaps = []) :
    afterMapto s =
      ((((s.drew 1).sentFrame [addrByte false s.cfg.regPinmapB, 0#8] [readValue s.cfg.regPinmapB s]).setReg s.cfg.regPinmapB
        (toenByte s)).updatePins).sentFrame [addrByte true s.cfg.regPinmapB, toenByte s] [] := by
  rw [afterMapto, atGap_nil h]

theorem afterDuration_nil {s : State} (h : s.env.gaps = []) (a : Addr) (v : Byte) :
    afterDuration a v s = (s.setReg a v).sentFrame [addrByte true a, v] [] := by
  rw [afterDuration, preempt_nil h]

/-- The pins stay updated through a store that no pin function reads. -/
theorem pinsUpdated_congr {s t u : State} (h : PinsUpdated s t) (hp : u.pins = t.pins) (h0 : u.pinFn0 = t.pinFn0)
    (h1 : u.pinFn1 = t.pinFn1) : PinsUpdated s u := by
  obtain ⟨l0, l1, hIsr, hPend⟩ := h
  exact ⟨by rw [hp, h0, l0], by rw [hp, h1, l1], by rw [hp, hIsr], by rw [hp, h0, h1, hPend]⟩

theorem pinsUpdated_afterMapto {s : State} (h : s.env.gaps = []) : PinsUpdated s (afterMapto s) := by
  rw [afterMapto_nil h]
  exact pinsUpdated_updatePins rfl

theorem pinsUpdated_afterDuration {s t : State} (h : PinsUpdated s t) (hGaps : t.env.gaps = []) {a : Addr}
    (hA : a ≠ t.cfg.regPinmapA) (hB : a ≠ t.cfg.regPinmapB) (v : Byte) : PinsUpdated s (afterDuration a v t) := by
  obtain ⟨h0, h1⟩ := setReg_pinFn_other hA hB v
  rw [afterDuration_nil hGaps]
  exact pinsUpdated_congr h rfl h0 h1

theorem afterMapto_gaps {s : State} (h : s.env.gaps = []) : (afterMapto s).env.gaps = [] := by
  rw [afterMapto_nil h]
  exact h

theorem afterDuration_gaps {s : State} (h : s.env.gaps = []) (a : Addr) (v : Byte) :
    (afterDuration a v s).env.gaps = [] := by
  rw [afterDuration_nil h]
  exact h

theorem pinsUpdated_afterToenH {s : State} (hc : s.cfg.wf = true) (hf : s.cfg.family = .h) (h : s.env.gaps = [])
    (on : Bool) : PinsUpdated s (afterToenH on s) := by
  have n1 := rxto_ne hc hf (.inl rfl)
  have n2 := rxto_ne hc hf (.inr rfl)
  obtain ⟨-, -, -, -, -, -, -, hA1, hB1⟩ := n1
  obtain ⟨-, -, -, -, -, -, -, hA2, hB2⟩ := n2
  have g1 := afterMapto_gaps h
  have e1 : (afterMapto s).cfg = s.cfg := by rw [afterMapto_nil h]; rfl
  have u1 := pinsUpdated_afterDuration (pinsUpdated_afterMapto h) g1 (by rw [e1]; exact hA1) (by rw [e1]; exact hB1)
    (durationByte on s.cfg.toOn1)
  have e2 : (afterDuration s.cfg.regRxto1 (durationByte on s.cfg.toOn1) (afterMapto s)).cfg = s.cfg := by
    rw [afterDuration_nil g1]
    exact e1
  exact pinsUpdated_afterDuration u1 (afterDuration_gaps g1 _ _) (by rw [e2]; exact hA2) (by rw [e2]; exact hB2) _

/-- `t` is `s` but for registers, pins, the record `seen` and the port's frames. -/
structure OnlyRegs (s t : State) : Prop where
  chip : t.chip = { s.chip with regs := t.chip.regs }
  latch : t.latch = s.latch
  caller : t.caller = s.caller
  agent : t.env.agent = s.env.agent
  gaps : t.env.gaps = s.env.gaps
  input : t.env.input = s.env.input

theorem OnlyRegs.trans {s t u : State} (h : OnlyRegs s t) (k : OnlyRegs t u) : OnlyRegs s u :=
  ⟨k.chip.trans (by rw [h.chip]), k.latch.trans h.latch, k.caller.trans h.caller, k.agent.trans h.agent, k.gaps.trans h.gaps,
    k.input.trans h.input⟩

theorem afterMapto_onlyRegs {s : State} (h : s.env.gaps = []) : OnlyRegs s (afterMapto s) := by
  rw [afterMapto_nil h]
  exact ⟨rfl, rfl, rfl, rfl, rfl, rfl⟩

theorem afterDuration_onlyRegs {s : State} (h : s.env.gaps = []) (a : Addr) (v : Byte) :
    OnlyRegs s (afterDuration a v s) := by
  rw [afterDuration_nil h]
  exact ⟨rfl, rfl, rfl, rfl, rfl, rfl⟩

theorem afterMapto_bus {s : State} (h : s.env.gaps = []) :
    (afterMapto s).env.bus =
      s.env.bus ++ [⟨[addrByte false s.cfg.regPinmapB, 0#8], [readValue s.cfg.regPinmapB s]⟩,
        ⟨[addrByte true s.cfg.regPinmapB, toenByte s], []⟩] := by
  simp [afterMapto_nil h]

theorem afterDuration_bus {s : State} (h : s.env.gaps = []) (a : Addr) (v : Byte) :
    (afterDuration a v s).env.bus = s.env.bus ++ [⟨[addrByte true a, v], []⟩] := by
  simp [afterDuration_nil h]

/-- With nothing in its gaps TOEN changes, under family H, the three registers and the pins alone. -/
theorem afterToenH_onlyRegs {s : State} (h : s.env.gaps = []) (on : Bool) : OnlyRegs s (afterToenH on s) :=
  have g1 := afterMapto_gaps h
  ((afterMapto_onlyRegs h).trans (afterDuration_onlyRegs g1 _ _)).trans (afterDuration_onlyRegs (afterDuration_gaps g1 _ _) _ _)

theorem afterToenH_bus {s : State} (h : s.env.gaps = []) (on : Bool) :
    (afterToenH on s).env.bus =
      s.env.bus ++
        [⟨[addrByte false s.cfg.regPinmapB, 0#8], [readValue s.cfg.regPinmapB s]⟩,
          ⟨[addrByte true s.cfg.regPinmapB, toenByte s], []⟩,
          ⟨[addrByte true s.cfg.regRxto1, durationByte on s.cfg.toOn1], []⟩,
          ⟨[addrByte true s.cfg.regRxto2, durationByte on s.cfg.toOn2], []⟩] := by
  have g1 := afterMapto_gaps h
  rw [afterToenH, afterDuration_bus (afterDuration_gaps g1 _ _), afterDuration_bus g1, afterMapto_bus h]
  simp

/-- What the three stores of TOEN leave under family H, whatever fell into its gaps. -/
theorem afterToenH_stored {s : State} (hc : s.cfg.wf = true) (hm : Memory.wf s.chip.regs = true) (hf : s.cfg.family = .h)
    (on : Bool) :
    (afterToenH on s).reg s.cfg.regPinmapB = toenByte s ∧
      (afterToenH on s).reg s.cfg.regRxto1 = durationByte on s.cfg.toOn1 ∧
      (afterToenH on s).reg s.cfg.regRxto2 = durationByte on s.cfg.toOn2 ∧
      (∀ a, a ≠ s.cfg.regPinmapB → a ≠ s.cfg.regRxto1 → a ≠ s.cfg.regRxto2 → (afterToenH on s).reg a = s.reg a) ∧
      (afterToenH on s).cfg = s.cfg ∧ (afterToenH on s).port = s.port ∧
      (afterToenH on s).chip.outputPower = s.chip.outputPower ∧
      (afterToenH on s).caller.hostPos = s.caller.hostPos ∧ (afterToenH on s).caller.result = s.caller.result ∧
      Memory.wf (afterToenH on s).chip.regs = true := by
  obtain ⟨-, -, -, -, -, -, -, -, hB1⟩ := rxto_ne hc hf (.inl rfl)
  obtain ⟨-, -, -, -, -, -, -, -, hB2⟩ := rxto_ne hc hf (.inr rfl)
  have h12 := (cfgFacts hc).rxto
  have k1 := afterMapto_stored hm
  have k2 := afterDuration_stored k1.regsWf s.cfg.regRxto1 (durationByte on s.cfg.toOn1)
  have k3 := afterDuration_stored k2.regsWf s.cfg.regRxto2 (durationByte on s.cfg.toOn2)
  refine ⟨?_, ?_, k3.stored, fun a hB h1 h2 => ?_, k3.cfg.trans (k2.cfg.trans k1.cfg), k3.port.trans (k2.port.trans k1.port),
    k3.power.trans (k2.power.trans k1.power), k3.hostPos.trans (k2.hostPos.trans k1.hostPos),
    k3.result.trans (k2.result.trans k1.result), k3.regsWf⟩
  · exact (k3.others _ hB2.symm).trans ((k2.others _ hB1.symm).trans k1.stored)
  · exact (k3.others _ h12).trans k2.stored
  · exact (k3.others a h2).trans ((k2.others a h1).trans (k1.others a hB))

/-- Settles O34: MAPTO and two duration writes; with nothing in the gaps each state is written out. -/
theorem toenWritesTheDurations : Obligations.ToenWritesTheDurations := by
  intro s on hc hm hf h hp r p v1 v2
  have hExec : exec (toenInstr on) s = .next (afterToenH on s) := by
    rw [(exec_toen_host h on).1 hf, toenH_ready hc hm hf hp, Tx.out]
  obtain ⟨hMap, h1, h2, hOthers, hCfg, hPort, hPower, hPos, hResult, -⟩ := afterToenH_stored hc hm hf on
  refine ⟨fun hPresent => readValue_pinmap hc hPresent (.inr rfl), _, hExec, hMap, h1, h2, hOthers, hCfg, hPort, hPower, hPos,
    hResult, fun hGaps => ?_⟩
  have k := afterToenH_onlyRegs hGaps on
  exact ⟨k.chip, k.latch, k.caller, pinsUpdated_afterToenH hc hf hGaps on, afterToenH_bus hGaps on⟩

/-- What TOEN leaves under family S. -/
def afterToenS (s : State) : State := clearBit .tmo (preempt (afterMapto s))

theorem toenS_ready {s : State} (hc : s.cfg.wf = true) (hp : PortReady s) : toenS s = .done () (afterToenS s) := by
  rw [toenS, maptoTx_ready hc hp, Tx.andThen]
  rfl

/-- Settles O35: MAPTO and the clear of the boolean, which do not look at the operand. -/
theorem toenClearsTheTimeoutBoolean : Obligations.ToenClearsTheTimeoutBoolean := by
  intro s on hc hm hf h hp r p
  have hExec (b : Bool) : exec (toenInstr b) s = .next (afterToenS s) := by
    rw [(exec_toen_host h b).2 hf, toenS_ready hc hp, Tx.out]
  have k1 := afterMapto_stored hm
  have k2 := preempt_kept (afterMapto s)
  have hReg (a : Addr) : (afterToenS s).reg a = (afterMapto s).reg a := State.reg_congr k2.regs a
  have hCfg : (afterToenS s).cfg = s.cfg := k2.cfg.trans k1.cfg
  have hClear : flagView (afterToenS s) .tmo = false := by
    rw [flagView_familyS (by rw [hCfg]; exact hf)]
    exact (clearBit_get _ .tmo .tmo).trans (by simp)
  refine ⟨fun hPresent => readValue_pinmap hc hPresent (.inr rfl), (hExec on).trans (hExec _).symm, _, hExec on, hClear,
    (hReg _).trans k1.stored, fun a ha => (hReg a).trans (k1.others a ha), hCfg, k2.port.trans k1.port,
    k2.power.trans k1.power, fun hGaps => ?_⟩
  have hPins := pinsUpdated_afterMapto hGaps
  rw [afterToenS, preempt_nil (afterMapto_gaps hGaps)]
  have k := afterMapto_onlyRegs hGaps
  refine ⟨k.chip, k.caller, ?_, pinsUpdated_congr hPins rfl rfl rfl, afterMapto_bus hGaps⟩
  rw [clearBit, k.latch]
  rfl

end Sys2Proof.Machine
end

section
/-! SUPPORT. The interrupt service, FORCETO and the flag view (R160, R161, R163, R168, R194). -/

namespace Sys2Proof.Machine

/-! ## IRQSVC -/

theorem irqEnabled_iff (s : State) :
    irqEnabled s = true ↔ s.pins.irqPend = true ∧ s.pins.inIsr = false ∧ s.port.busSelected = false := by
  simp [irqEnabled, and_assoc]

theorem serviceIrq_enabled {s : State} (h : irqEnabled s = true) : serviceIrq s = leaveIsr (serviceBody (enterIsr s)) :=
  if_pos h

theorem serviceIrq_disabled {s : State} (h : irqEnabled s = false) : serviceIrq s = s :=
  if_neg (by simp [h])

theorem exec_irqsvc {s : State} (ha : s.env.agent = .isr) : exec .irqsvc s = .next (serviceIrq s) :=
  admit_isr ha

theorem serviceBody_h {s : State} (hf : s.cfg.family = .h) : serviceBody s = (sampleTx .isr s).stateOr s := by
  simp only [serviceBody, hf]

theorem serviceBody_s {s : State} (hf : s.cfg.family = .s) : serviceBody s = (latchTx .isr s).stateOr s := by
  simp only [serviceBody, hf]

/-- Settles O26: the body is SAMPLE of a ready port, between entry and return. -/
theorem irqsvcSamplesUnderFamilyH : Obligations.IrqsvcSamplesUnderFamilyH := by
  intro s hc hPresent hf ha hEnabled hSettled
  have hReady : PortReady (enterIsr s) := ⟨((irqEnabled_iff s).1 hEnabled).2.2, hSettled⟩
  obtain ⟨b1, b2, hSample, hViews⟩ := sampleTx_ready (s := enterIsr s) hc hf hReady .isr
  obtain ⟨⟨d1, h1⟩, d2, h2⟩ := hViews hPresent
  refine ⟨_, exec_irqsvc ha, ?_⟩
  rw [serviceIrq_enabled hEnabled, serviceBody_h (s := enterIsr s) hf, hSample]
  refine ⟨fun e => flagView_of_shadows (s := enterIsr s) hc hf (by rfl) (by exact h1) (by exact h2) e, rfl, rfl, rfl, rfl,
    rfl, rfl, ?_⟩
  simp [Tx.stateOr]

/-- Settles O27: the body is LATCH of a ready port; where the recorded levels were current it raises no request. -/
theorem irqsvcLatchesUnderFamilyS : Obligations.IrqsvcLatchesUnderFamilyS := by
  intro s hc hPresent hf ha hEnabled hSettled h0 h1
  have hReady : PortReady (enterIsr s) := ⟨((irqEnabled_iff s).1 hEnabled).2.2, hSettled⟩
  obtain ⟨t, hLatch, hBits, hSh1, hSh2, hChip, hLow0, hLow1, -, hPend, -, hCfg, hPort, hCaller⟩ :=
    latchTx_ready (s := enterIsr s) hc hf hReady .isr
  have hPend' : t.pins.irqPend = false := hPend ⟨h0, h1⟩
  refine ⟨_, exec_irqsvc ha, ?_⟩
  rw [serviceIrq_enabled hEnabled, serviceBody_s (s := enterIsr s) hf, hLatch]
  refine ⟨fun e => ?_, hChip, ?_, hSh1, hSh2, hCfg, hPort, hCaller⟩
  · exact (flagView_familyS (s := leaveIsr t) (by rw [leaveIsr_cfg, hCfg]; exact hf) e).trans (hBits hPresent e)
  · simp only [Tx.stateOr, leaveIsr, hLow0, hLow1, hPend']

theorem serviceBody_unsettled {s : State} (hb : s.port.busSelected = false) (hSettle : s.port.settlePending = true) :
    serviceBody s = raise .isr (.unsettledAccess s.cfg.regIrq1) s := by
  cases hf : s.cfg.family
  · rw [serviceBody_h hf, sampleTx, rdreg_unsettled hb hSettle]
    rfl
  · rw [serviceBody_s hf, latchTx, rdreg_unsettled hb hSettle]
    rfl

/-- Settles O28: the first read of either body faults, and nothing of it is stored. -/
theorem unsettledServiceFaultsTheIsr : Obligations.UnsettledServiceFaultsTheIsr := by
  intro s ha hEnabled hSettle
  refine ⟨_, exec_irqsvc ha, ?_⟩
  rw [serviceIrq_enabled hEnabled,
    serviceBody_unsettled (s := enterIsr s) ((irqEnabled_iff s).1 hEnabled).2.2 hSettle]
  exact ⟨rfl, rfl, rfl, rfl, rfl, rfl, rfl⟩

/-! ## SAMPLE and LATCH as words of their own -/

theorem exec_sample_isr {s : State} (ha : s.env.agent = .isr) : exec .sample s = ofFamily .h s (sampleTx .isr s).out := by
  have hRow : exec .sample s = ifAdmitted [.isr] s (ofFamily .h s (sampleTx s.env.agent s).out) := rfl
  rw [hRow, admit_isr ha, ha]

theorem exec_latch_isr {s : State} (ha : s.env.agent = .isr) : exec .latch s = ofFamily .s s (latchTx .isr s).out := by
  have hRow : exec .latch s = ifAdmitted [.isr] s (ofFamily .s s (latchTx s.env.agent s).out) := rfl
  rw [hRow, admit_isr ha, ha]

/-- The shadow of the register that CRC-valid lies in holds it after SAMPLE. -/
theorem shadow_crc_of_views {s : State} {l : LatchState} {d1 d2 : Byte} (h1 : l.shadow1 = statusView .one d1 s)
    (h2 : l.shadow2 = statusView .two d2 s) : bitOf (l.shadow s.cfg.locCrc.reg) s.cfg.locCrc.bit = s.chip.crcOk := by
  cases hk : s.cfg.locCrc.reg
  · simp only [LatchState.shadow, h1]
    exact statusView_crc d1 .one hk
  · simp only [LatchState.shadow, h2]
    exact statusView_crc d2 .two hk

/-- Settles O29: under each family one of the two is refused, and the other is what its two reads leave. -/
theorem sampleAndLatchByFamily : Obligations.SampleAndLatchByFamily := by
  intro s hc hPresent ha hp
  refine ⟨fun hf => ⟨?_, ?_⟩, fun hf => ⟨?_, ?_⟩⟩
  · rw [exec_latch_isr ha, ofFamily_other (by simp [hf])]
  · obtain ⟨b1, b2, hSample, hViews⟩ := sampleTx_ready hc hf hp .isr
    obtain ⟨⟨d1, h1⟩, d2, h2⟩ := hViews hPresent
    have hExec : exec .sample s = _ := (exec_sample_isr ha).trans ((ofFamily_same hf _).trans (congrArg Tx.out hSample))
    exact ⟨_, hExec, fun e => flagView_of_shadows (s := s) hc hf (by rfl) (by exact h1) (by exact h2) e,
      shadow_crc_of_views h1 h2, rfl, rfl, rfl, rfl, rfl, rfl⟩
  · rw [exec_sample_isr ha, ofFamily_other (by simp [hf])]
  · obtain ⟨t, hLatch, hBits, hSh1, hSh2, hChip, hLow0, hLow1, hIsr, hPend, hKept, hCfg, hPort, hCaller⟩ :=
      latchTx_ready hc hf hp .isr
    refine ⟨t, by rw [exec_latch_isr ha, ofFamily_same hf, hLatch, Tx.out], fun e => ?_, hChip, hLow0, hLow1, hPend, hKept, hIsr,
      hSh1, hSh2, hCfg, hPort, hCaller⟩
    rw [flagView_familyS (by rw [hCfg]; exact hf)]
    exact hBits hPresent e

/-! ## RDF -/

/-- Settles O32: RDF answers `flagView`, here written out. -/
theorem rdfAnswersTheFlagView : Obligations.RdfAnswersTheFlagView := by
  intro s e h
  have hRow : exec (rdfInstr e) s = rdfOp e s := by cases e <;> rfl
  refine hRow.trans ((rdfOp_host h e).trans ?_)
  rfl

/-! ## FORCETO -/

theorem forceEnabled_iff (s : State) :
    forceEnabled s = true ↔ s.pins.inIsr = false ∧ s.port.busSelected = false := by
  simp [forceEnabled]

theorem forceTimeout_disabled {s : State} (h : forceEnabled s = false) : forceTimeout s = s :=
  if_neg (by simp [h])

theorem forceTimeout_s {s : State} (h : forceEnabled s = true) (hf : s.cfg.family = .s) :
    forceTimeout s = { s with latch := { s.latch with bits := s.latch.bits.set .tmo true } } := by
  simp only [forceTimeout, h, if_true, hf]

theorem forceTimeout_h {s : State} (h : forceEnabled s = true) (hf : s.cfg.family = .h) :
    forceTimeout s =
      { s with
        latch := s.latch.setShadow s.cfg.locTo.reg (s.latch.shadow s.cfg.locTo.reg ||| bitMask s.cfg.locTo.bit) } := by
  simp only [forceTimeout, h, if_true, hf]

theorem exec_forceto {s : State} (ha : s.env.agent = .timer) : exec .forceto s = .next (forceTimeout s) := by
  have hRow : exec .forceto s = ifAdmitted [.timer] s (.next (forceTimeout s)) := rfl
  rw [hRow]
  simp [ifAdmitted, ha]

theorem shadow_setShadow (l : LatchState) (k k' : StatusReg) (v : Byte) :
    (l.setShadow k v).shadow k' = if k' = k then v else l.shadow k' := by
  cases k <;> cases k' <;> rfl

/-- The places of the three flags differ (R96). -/
theorem loc_ne_of_ne {c : Cfg} (h : c.wf = true) {e : Event} (he : e ≠ .tmo) :
    (c.loc e).reg = c.locTo.reg → (c.loc e).bit ≠ c.locTo.bit := by
  have hl := (cfgFacts h).locs
  simp only [List.nodup_cons, List.mem_cons, List.not_mem_nil, or_false, not_or] at hl
  obtain ⟨⟨-, hPr, -⟩, ⟨hPs, -⟩, -⟩ := hl
  intro hReg hBit
  have hLoc : c.loc e = c.locTo := by
    cases h1 : c.loc e
    cases h2 : c.locTo
    simp_all
  cases e
  · exact hPr hLoc
  · exact hPs hLoc
  · exact he rfl

/-- Or-ing the Timeout bit into its shadow sets that flag view and no other (R195). -/
theorem flagView_forced_h {s : State} (hf : s.cfg.family = .h) (e : Event) :
    flagView
        { s with
          latch := s.latch.setShadow s.cfg.locTo.reg (s.latch.shadow s.cfg.locTo.reg ||| bitMask s.cfg.locTo.bit) } e =
      (flagView s e || decide ((s.cfg.loc e).reg = s.cfg.locTo.reg ∧ (s.cfg.loc e).bit = s.cfg.locTo.bit)) := by
  simp only [flagView, hf, shadow_setShadow]
  by_cases hReg : (s.cfg.loc e).reg = s.cfg.locTo.reg
  · simp [hReg, bitOf_or_bitMask]
  · simp [hReg]

/-- Settles O37: one store to the latch; under family H the other flags have other places. -/
theorem forcetoSetsTheTimeoutFlag : Obligations.ForcetoSetsTheTimeoutFlag := by
  intro s hc ha hIsr hb
  have hEnabled := (forceEnabled_iff s).2 ⟨hIsr, hb⟩
  refine ⟨_, exec_forceto ha, ?_⟩
  cases hf : s.cfg.family
  · rw [forceTimeout_h hEnabled hf]
    have hKept {e : Event} (he : e ≠ .tmo) := loc_ne_of_ne hc he
    refine ⟨?_, rfl, ?_, ?_, nofun, fun _ => ⟨?_, fun hk => ?_, fun hk => ?_⟩⟩
    · rw [flagView_forced_h hf]
      simp [Cfg.loc]
    · rw [flagView_forced_h hf, decide_eq_false fun h => hKept (e := .pr) nofun h.1 h.2, Bool.or_false]
    · rw [flagView_forced_h hf, decide_eq_false fun h => hKept (e := .ps) nofun h.1 h.2, Bool.or_false]
    · cases s.cfg.locTo.reg <;> rfl
    · rw [hk]
      exact ⟨rfl, rfl⟩
    · rw [hk]
      exact ⟨rfl, rfl⟩
  · rw [forceTimeout_s hEnabled hf]
    refine ⟨?_, rfl, ?_, ?_, fun _ => rfl, nofun⟩ <;> simp [flagView, hf, EventBits.get_set]

end Sys2Proof.Machine
end

section
/-! SUPPORT. The Radio steps: when they are enabled, and what an enabled one leaves (R250 to R254). -/

namespace Sys2Proof.Machine

theorem radioStep_enabled {s : State} {ev : RadioEvent} (h : radioEnabled s ev = true) :
    radioStep ev s = (radioWrite s ev).updatePins :=
  if_pos h

theorem radioStep_disabled {s : State} {ev : RadioEvent} (h : radioEnabled s ev = false) : radioStep ev s = s :=
  if_neg (by simp [h])

theorem radioEnabled_closed {s : State} (h : s.port.busSelected = true) (ev : RadioEvent) : radioEnabled s ev = false := by
  cases ev <;> simp [radioEnabled, h]

theorem radioEnabled_payloadReady (s : State) (first : Byte) (rest : List Byte) (crc : Bool) (rssi : Byte) :
    radioEnabled s (.payloadReady first rest crc rssi) = true ↔
      s.port.busSelected = false ∧ s.mode? = some .receive ∧ s.chip.hw.pr = false := by
  simp [radioEnabled, and_assoc]

theorem radioEnabled_packetSent (s : State) :
    radioEnabled s .packetSent = true ↔
      s.port.busSelected = false ∧ s.mode? = some .transmit ∧ s.chip.hw.ps = false := by
  simp [radioEnabled, and_assoc]

theorem armed_iff (s : State) :
    s.armed = true ↔
      s.cfg.family = .h ∧ s.mode? = some .receive ∧ (s.reg s.cfg.regRxto1 ≠ 0#8 ∨ s.reg s.cfg.regRxto2 ≠ 0#8) := by
  simp [State.armed, and_assoc]

theorem radioEnabled_timeout (s : State) :
    radioEnabled s .timeout = true ↔
      s.port.busSelected = false ∧ s.chip.hw.tmo = false ∧ s.mode? = some .receive ∧
        (s.cfg.family = .s ∨ s.reg s.cfg.regRxto1 ≠ 0#8 ∨ s.reg s.cfg.regRxto2 ≠ 0#8) := by
  cases hf : s.cfg.family <;> simp [radioEnabled, hf, armed_iff, and_assoc]

theorem radioStep_of_not_enabled {s : State} {ev : RadioEvent} (h : ¬ radioEnabled s ev = true) : radioStep ev s = s :=
  radioStep_disabled (Bool.not_eq_true _ ▸ h)

/-- Settles O36: a countdown step is enabled only where the countdown is armed. -/
theorem countdownFiresOnlyWhenArmed : Obligations.CountdownFiresOnlyWhenArmed := by
  intro s hf
  refine ⟨fun h1 h2 => radioStep_of_not_enabled fun h => ?_, fun hm => radioStep_of_not_enabled fun h => ?_,
    fun hm hArmed hb hFlag => ?_⟩
  · rcases ((radioEnabled_timeout s).1 h).2.2.2 with hs | h | h
    · simp [hf] at hs
    · exact h h1
    · exact h h2
  · exact hm ((radioEnabled_timeout s).1 h).2.2.1
  · rw [radioStep_enabled ((radioEnabled_timeout s).2 ⟨hb, hFlag, hm, .inr hArmed⟩)]
    exact ⟨rfl, pinsUpdated_updatePins rfl, rfl⟩

/-- Settles O39: each step asks for its mode, its flag and a closed bracket before anything happens. -/
theorem stepsNotEnabledChangeNothing : Obligations.StepsNotEnabledChangeNothing := by
  intro s first rest crc rssi
  refine ⟨fun hm => ⟨radioStep_of_not_enabled fun h => ?_, radioStep_of_not_enabled fun h => ?_⟩,
    fun hm => radioStep_of_not_enabled fun h => ?_, fun hFlag => radioStep_of_not_enabled fun h => ?_,
    fun hFlag => radioStep_of_not_enabled fun h => ?_, fun hFlag => radioStep_of_not_enabled fun h => ?_,
    fun hb ev => radioStep_disabled (radioEnabled_closed hb ev), fun ha hNot => ?_, fun ha hNot => ?_⟩
  · exact hm ((radioEnabled_payloadReady s first rest crc rssi).1 h).2.1
  · exact hm ((radioEnabled_timeout s).1 h).2.2.1
  · exact hm ((radioEnabled_packetSent s).1 h).2.1
  · exact absurd hFlag (by simp [((radioEnabled_payloadReady s first rest crc rssi).1 h).2.2])
  · exact absurd hFlag (by simp [((radioEnabled_packetSent s).1 h).2.2])
  · exact absurd hFlag (by simp [((radioEnabled_timeout s).1 h).2.1])
  · have hDisabled : irqEnabled s = false := by
      rcases hNot with h | h | h <;> simp [irqEnabled, h]
    rw [exec_irqsvc ha, serviceIrq_disabled hDisabled]
  · have hDisabled : forceEnabled s = false := by
      rcases hNot with h | h <;> simp [forceEnabled, h]
    rw [exec_forceto ha, forceTimeout_disabled hDisabled]

/-- Settles O40: an enabled event sets its flag and updates the pins; a mapped pin follows the flag, which was 0. -/
theorem mappedEventsRequestService : Obligations.MappedEventsRequestService := by
  intro s first rest crc rssi hb
  refine ⟨fun hm hFlag => ?_, fun hm hFlag => ?_, fun hm hFlag hArmed => ?_⟩
  · rw [radioStep_enabled ((radioEnabled_payloadReady s first rest crc rssi).2 ⟨hb, hm, hFlag⟩)]
    refine ⟨rfl, rfl, pinsUpdated_updatePins rfl, fun hCur hMap => ?_⟩
    have hLow : s.pins.level0 = false := by rw [hCur, pinFn0_of_pr hMap, hFlag]
    have hFn : (radioWrite s (.payloadReady first rest crc rssi)).pinFn0 = true :=
      pinFn0_of_pr (s := radioWrite s (.payloadReady first rest crc rssi)) hMap
    exact ⟨updatePins_rise0 hLow hFn, hFn⟩
  · rw [radioStep_enabled ((radioEnabled_packetSent s).2 ⟨hb, hm, hFlag⟩)]
    refine ⟨rfl, rfl, pinsUpdated_updatePins rfl, fun hCur hNe hMap => ?_⟩
    have hLow : s.pins.level0 = false := by rw [hCur, pinFn0_of_ps hNe hMap, hFlag]
    have hFn : (radioWrite s .packetSent).pinFn0 = true := pinFn0_of_ps (s := radioWrite s .packetSent) hNe hMap
    exact ⟨updatePins_rise0 hLow hFn, hFn⟩
  · rw [radioStep_enabled ((radioEnabled_timeout s).2 ⟨hb, hFlag, hm, hArmed⟩)]
    refine ⟨rfl, rfl, pinsUpdated_updatePins rfl, fun hCur hMap => ?_⟩
    have hLow : s.pins.level1 = false := by rw [hCur, pinFn1_of_to hMap, hFlag]
    have hFn : (radioWrite s .timeout).pinFn1 = true := pinFn1_of_to (s := radioWrite s .timeout) hMap
    exact ⟨updatePins_rise1 hLow hFn, hFn⟩

/-! ## The chip's own clears (R252) -/

/-- `Quiet` as R252 words it, in a defined mode. -/
def QuietIn (s : State) (m : Mode) : Event → Prop
  | .ps => m ≠ .transmit
  | .tmo => m ≠ .receive
  | .pr => m ≠ .receive ∨ s.chip.fifo = []

theorem quiet_iff {s : State} {m : Mode} (hm : s.mode? = some m) (e : Event) : quiet s e = true ↔ QuietIn s m e := by
  cases e <;> simp [quiet, QuietIn, hm]

theorem radioEnabled_autoClear (s : State) (e : Event) :
    radioEnabled s (.autoClear e) = true ↔
      s.port.busSelected = false ∧ s.cfg.family = .h ∧ s.cfg.autoClear = .draw ∧ s.chip.hw.get e = true ∧
        quiet s e = true := by
  simp [radioEnabled, and_assoc]

/-- Settles O41: the clear is enabled exactly under the listed conditions, `Quiet` read in the mode in force. -/
theorem autoClearIsQuiet : Obligations.AutoClearIsQuiet := by
  intro s e m hm
  refine ⟨fun hNot => radioStep_of_not_enabled fun h => ?_, fun hf hd hFlag hb => ⟨fun hq => ?_, fun hq =>
    radioStep_of_not_enabled fun h => ?_⟩⟩
  · obtain ⟨hb, hf, hd, hFlag, -⟩ := (radioEnabled_autoClear s e).1 h
    rcases hNot with h | h | h | h <;> simp_all
  · have hQuiet : QuietIn s m e := by cases e <;> exact hq
    exact radioStep_enabled ((radioEnabled_autoClear s e).2 ⟨hb, hf, hd, hFlag, (quiet_iff hm e).2 hQuiet⟩)
  · have hQuiet := (quiet_iff hm e).1 ((radioEnabled_autoClear s e).1 h).2.2.2.2
    exact hq (by cases e <;> exact hQuiet)

end Sys2Proof.Machine
end

section
/-! SUPPORT. The absent chip (R31, R148, U37 of 93_implementation_defined.md): its reads and services. -/

namespace Sys2Proof.Machine

theorem versionValue_of_absent {c : Cfg} (h : c.present = false) : c.versionValue = c.versionInvalid := by
  simpa [Cfg.present] using h

/-- What a read of an absent chip answers does not depend on what the chip holds. -/
theorem readValue_absent_congr {s : State} (hc : s.cfg.wf = true) (hAbsent : s.cfg.present = false) (a : Addr) (c : Chip) :
    readValue a { s with chip := c } = readValue a s := by
  by_cases ha : a = s.cfg.regVersion
  · rw [ha, readValue_version hc]
    exact readValue_version (s := { s with chip := c }) hc
  · rw [readValue_absent hAbsent ha]
    exact readValue_absent (s := { s with chip := c }) hAbsent ha

/-- Nor do the data slots of a FIFO read. -/
theorem fifoSlots_absent_congr {s : State} (hAbsent : s.cfg.present = false) (n : Nat) (c : Chip) :
    fifoSlots n { s with chip := c } = fifoSlots n s := by
  simp [fifoSlots, fifoSlot, hAbsent]

/-- FIFORD of a ready port answers the slots' bytes. -/
theorem exec_fiford_answer {s : State} (h : HostMay s) (hp : PortReady s) (fill : List Byte) :
    ∃ t : State, exec (.fiford fill) s = .next (t.answer (.bytes (fifoSlots fill.length s))) := by
  rw [exec_fiford_host h, fiford, bracket_ready hp]
  exact ⟨_, rfl⟩

/-- An IRQSVC of a settled chip completes, enabled or not, and raises nothing. -/
theorem serviceIrq_completes {s : State} (hc : s.cfg.wf = true) (hp : PortReady s) :
    (serviceIrq s).caller = s.caller ∧ (serviceIrq s).cfg = s.cfg := by
  cases hEnabled : irqEnabled s
  · rw [serviceIrq_disabled hEnabled]
    exact ⟨rfl, rfl⟩
  · rw [serviceIrq_enabled hEnabled]
    cases hf : s.cfg.family
    · obtain ⟨b1, b2, hSample, -⟩ := sampleTx_ready (s := enterIsr s) hc hf hp .isr
      rw [serviceBody_h (s := enterIsr s) hf, hSample]
      exact ⟨rfl, rfl⟩
    · obtain ⟨t, hLatch, -, -, -, -, -, -, -, -, -, hCfg, -, hCaller⟩ := latchTx_ready (s := enterIsr s) hc hf hp .isr
      rw [serviceBody_s (s := enterIsr s) hf, hLatch]
      exact ⟨hCaller, hCfg⟩

/-- Settles O48: values and slots of an absent chip do not look at it, and no read or service asks whether it is there. -/
theorem absentChipAnswersNothing : Obligations.AbsentChipAnswersNothing := by
  intro s c hc hAbsent hp
  refine ⟨fun i a d hi hMay hFifo => ?_, fun fill hHost => ?_, fun ha => ⟨?_, fun hf => ?_, fun hf => ?_⟩⟩
  · have hRead := (exec_of_readOf hi s).trans (rdregOp_ready (d := d) hMay hp hFifo)
    have hRead' := (exec_of_readOf hi { s with chip := c }).trans
      (rdregOp_ready (s := { s with chip := c }) (d := d) hMay hp hFifo)
    rw [readValue_absent_congr hc hAbsent] at hRead'
    refine ⟨_, _, _, hRead, hRead', fun h => ?_, by simp, by simp⟩
    rw [h, readValue_version hc, versionValue_of_absent hAbsent]
  · obtain ⟨t, ht⟩ := exec_fiford_answer hHost hp fill
    obtain ⟨u, hu⟩ := exec_fiford_answer (s := { s with chip := c }) hHost hp fill
    rw [fifoSlots_absent_congr hAbsent] at hu
    exact ⟨_, t, u, ht, hu, fifoSlots_length _ s⟩
  · exact ⟨_, exec_irqsvc ha, serviceIrq_completes hc hp⟩
  · obtain ⟨b1, b2, hSample, -⟩ := sampleTx_ready hc hf hp .isr
    exact ⟨_, (exec_sample_isr ha).trans ((ofFamily_same hf _).trans (congrArg Tx.out hSample)), rfl, rfl⟩
  · obtain ⟨t, hLatch, -, -, -, -, -, -, -, -, -, -, -, hCaller⟩ := latchTx_ready hc hf hp .isr
    exact ⟨t, by rw [exec_latch_isr ha, ofFamily_same hf, hLatch, Tx.out], hCaller⟩

end Sys2Proof.Machine
end

section
/-! SUPPORT. Host turns (R211): what one statement of an expansion leaves, for each kind of statement. -/

namespace Sys2Proof.Machine

/-! ## The Host's turns -/

/-- The Host takes the next step, at the frames `pos`: nothing is scheduled but calls, which wait. -/
structure HostTurns (s : State) (pos : List Frame) : Prop where
  input : s.env.input = [] ∨ ∃ p rest, s.env.input = .call p :: rest
  position : s.caller.hostPos = pos
  running : hostMayAct s = true
  initOk : s.caller.initFailed = false

theorem hostTurns_of_alone {s : State} {pos : List Frame} (h : HostAlone s pos) : HostTurns s pos :=
  ⟨.inl h.input, h.position, h.running, h.initOk⟩

/-- `s` with the Host's turn in hand, nothing falling into its gaps. -/
def State.inTurn (s : State) : State := handOver .host [] s

@[simp] theorem State.inTurn_cfg (s : State) : s.inTurn.cfg = s.cfg := rfl
@[simp] theorem State.inTurn_chip (s : State) : s.inTurn.chip = s.chip := rfl
@[simp] theorem State.inTurn_latch (s : State) : s.inTurn.latch = s.latch := rfl
@[simp] theorem State.inTurn_pins (s : State) : s.inTurn.pins = s.pins := rfl
@[simp] theorem State.inTurn_port (s : State) : s.inTurn.port = s.port := rfl
@[simp] theorem State.inTurn_caller (s : State) : s.inTurn.caller = s.caller := rfl
@[simp] theorem State.inTurn_agent (s : State) : s.inTurn.env.agent = .host := rfl
@[simp] theorem State.inTurn_gaps (s : State) : s.inTurn.env.gaps = [] := rfl
@[simp] theorem State.inTurn_input (s : State) : s.inTurn.env.input = s.env.input := rfl
@[simp] theorem State.inTurn_bus (s : State) : s.inTurn.env.bus = s.env.bus := rfl

/-- A Host that may act executes the statement on top of `hostPos`, also where only calls are scheduled. -/
theorem step_eq_stmt {s : State} {f : Frame} {fs : List Frame}
    (hInput : s.env.input = [] ∨ ∃ p rest, s.env.input = .call p :: rest) (hPos : s.caller.hostPos = f :: fs)
    (hRun : hostMayAct s = true) : step s = stmt f s.inTurn := by
  have hTurn : hostTurn [] s = stmt f s.inTurn := hostTurn_cons hRun hPos []
  rcases hInput with hIn | ⟨p, rest, hIn⟩
  · simp only [step, turn, hIn, hTurn]
  · simp [step, turn, hIn, callTurn, hRun, hPos, hTurn]

theorem HostTurns.step {s : State} {f : Frame} {fs : List Frame} (h : HostTurns s (f :: fs)) :
    step s = stmt f s.inTurn :=
  step_eq_stmt h.input h.position h.running

theorem HostTurns.hostMay {s : State} {pos : List Frame} (h : HostTurns s pos) : HostMay s.inTurn :=
  ⟨rfl, h.initOk⟩

/-- From `s` to `t` the Host has come to the frames `pos` with the result `r`; nothing else of the caller, the
configuration or the schedule changed, and the Host is not held. -/
structure CameTo (s t : State) (pos : List Frame) (r : Result) : Prop where
  cfg : t.cfg = s.cfg
  caller : t.caller = { s.caller with hostPos := pos, result := r }
  input : t.env.input = s.env.input
  inIsr : t.pins.inIsr = s.pins.inIsr

theorem CameTo.trans {s t u : State} {p q : List Frame} {r r' : Result} (h : CameTo s t p r) (k : CameTo t u q r') :
    CameTo s u q r' :=
  ⟨k.cfg.trans h.cfg, by rw [k.caller, h.caller], k.input.trans h.input, k.inIsr.trans h.inIsr⟩

theorem CameTo.turns {s t : State} {p q : List Frame} {r : Result} (h : CameTo s t q r) (k : HostTurns s p) :
    HostTurns t q := by
  refine ⟨by rw [h.input]; exact k.input, by rw [h.caller], ?_, by rw [h.caller]; exact k.initOk⟩
  have hRun := k.running
  simpa only [hostMayAct, h.caller, h.inIsr] using hRun

theorem CameTo.result {s t : State} {p : List Frame} {r : Result} (h : CameTo s t p r) : t.caller.result = r := by
  rw [h.caller]

theorem CameTo.hostPos {s t : State} {p : List Frame} {r : Result} (h : CameTo s t p r) : t.caller.hostPos = p := by
  rw [h.caller]

theorem CameTo.faults {s t : State} {p : List Frame} {r : Result} (h : CameTo s t p r) :
    t.caller.faults = s.caller.faults := by
  rw [h.caller]

/-- `u` with the Host at `pos`. -/
def State.at (u : State) (pos : List Frame) : State := { u with caller := { u.caller with hostPos := pos } }

theorem goto_at {u : State} {f : Frame} {fs : List Frame} (h : u.caller.hostPos = f :: fs) (k : Nat) :
    goto k u = u.at ({ f with idx := k } :: fs) :=
  goto_cons h k

theorem bindTop_at {u : State} {f : Frame} {fs : List Frame} (h : u.caller.hostPos = f :: fs) (g : Locals → Locals) :
    bindTop g u = u.at ({ f with locals := g f.locals } :: fs) :=
  bindTop_cons h g

theorem goto_bindTop_at {u : State} {f : Frame} {fs : List Frame} (h : u.caller.hostPos = f :: fs) (k : Nat)
    (g : Locals → Locals) : goto k (bindTop g u) = u.at (⟨f.op, k, g f.locals⟩ :: fs) := by
  rw [bindTop_at h]
  exact goto_at (f := { f with locals := g f.locals }) rfl k

/-! ## Runs -/

theorem run_zero (s : State) : Host.Core.run core 0 s = .next s := rfl

theorem run_one {s t : State} (h : step s = .next t) : Host.Core.run core 1 s = .next t :=
  (run_step h).trans (run_zero t)

theorem exists_step_of_run (M : Host.Core) {n : Nat} {s t : M.State} (h : M.run (n + 1) s = .next t) :
    ∃ u, M.step s = .next u ∧ M.run n u = .next t := by
  rw [Host.Core.run] at h
  cases hs : M.step s with
  | next u => exact ⟨u, rfl, by simpa only [hs] using h⟩
  | fault r => simp only [hs, reduceCtorEq] at h
  | refused r => simp only [hs, reduceCtorEq] at h

theorem run_add (M : Host.Core) {m n : Nat} {s t : M.State} (h : M.run m s = .next t) : M.run (m + n) s = M.run n t := by
  induction m generalizing s with
  | zero =>
    obtain rfl : s = t := Host.Outcome.next.inj h
    rw [Nat.zero_add]
  | succ m ih =>
    obtain ⟨u, hs, hu⟩ := exists_step_of_run M h
    rw [Nat.add_right_comm, run_succ_of_next M _ s u hs, ih hu]

/-! ## Statements that leave the block alone -/

/-- Nothing of the block but the latch changed, and nothing went over the port. -/
structure ChipKept (s t : State) : Prop where
  chip : t.chip = s.chip
  pins : t.pins = s.pins
  port : t.port = s.port
  bus : t.env.bus = s.env.bus

/-- Nothing of the block changed, and nothing went over the port. -/
structure BlockKept (s t : State) : Prop extends ChipKept s t where
  latch : t.latch = s.latch

theorem turn_ret {s : State} {f : Frame} {fs : List Frame} {r : Result} (h : HostTurns s (f :: fs))
    (hStmt : stmt f s.inTurn = .next (ret r s.inTurn)) :
    ∃ t : State, step s = .next t ∧ CameTo s t fs r ∧ BlockKept s t := by
  refine ⟨_, h.step.trans hStmt, ⟨rfl, ?_, rfl, rfl⟩, ⟨⟨rfl, rfl, rfl, rfl⟩, rfl⟩⟩
  simp [ret, h.position]

theorem turn_bind {s : State} {f : Frame} {fs : List Frame} {k : Nat} {g : Locals → Locals} (h : HostTurns s (f :: fs))
    (hStmt : stmt f s.inTurn = .next (goto k (bindTop g s.inTurn))) :
    ∃ t : State, step s = .next t ∧ CameTo s t (⟨f.op, k, g f.locals⟩ :: fs) s.caller.result ∧ BlockKept s t := by
  rw [goto_bindTop_at (by exact h.position)] at hStmt
  exact ⟨_, h.step.trans hStmt, ⟨rfl, rfl, rfl, rfl⟩, ⟨⟨rfl, rfl, rfl, rfl⟩, rfl⟩⟩

theorem turn_goto {s : State} {f : Frame} {fs : List Frame} {k : Nat} (h : HostTurns s (f :: fs))
    (hStmt : stmt f s.inTurn = .next (goto k s.inTurn)) :
    ∃ t : State, step s = .next t ∧ CameTo s t (⟨f.op, k, f.locals⟩ :: fs) s.caller.result ∧ BlockKept s t := by
  rw [goto_at (by exact h.position)] at hStmt
  exact ⟨_, h.step.trans hStmt, ⟨rfl, rfl, rfl, rfl⟩, ⟨⟨rfl, rfl, rfl, rfl⟩, rfl⟩⟩

theorem turn_callThen {s : State} {f : Frame} {fs : List Frame} {p : Pseudo} {k : Nat} (h : HostTurns s (f :: fs))
    (hStmt : stmt f s.inTurn = .next (callThen p k s.inTurn)) :
    ∃ t : State,
      step s = .next t ∧ CameTo s t (⟨p, 0, .fresh⟩ :: ⟨f.op, k, f.locals⟩ :: fs) s.caller.result ∧ BlockKept s t := by
  rw [callThen, goto_at (by exact h.position)] at hStmt
  exact ⟨_, h.step.trans hStmt, ⟨rfl, rfl, rfl, rfl⟩, ⟨⟨rfl, rfl, rfl, rfl⟩, rfl⟩⟩

/-! ## Statements that execute an instruction -/

theorem turn_onNext {s u : State} {f : Frame} {fs : List Frame} {φ : State → State} {o : Out State}
    (h : HostTurns s (f :: fs)) (hStmt : stmt f s.inTurn = onNext φ o) (ho : o = .next u) : step s = .next (φ u) := by
  rw [h.step, hStmt, ho, onNext]

/-- A statement of the form `thenGoto`, where the instruction answers `u`. -/
theorem turn_thenGoto {s u : State} {f : Frame} {fs : List Frame} {k : Nat} {o : Out State} (h : HostTurns s (f :: fs))
    (hStmt : stmt f s.inTurn = thenGoto k o) (ho : o = .next u) (hPos : u.caller.hostPos = s.caller.hostPos) :
    step s = .next (u.at (⟨f.op, k, f.locals⟩ :: fs)) := by
  rw [turn_onNext h hStmt ho, goto_at (hPos.trans h.position)]

/-- What SETMODE leaves with nothing in its gap. -/
structure ModeSet (m : Mode) (s t : State) : Prop where
  mode : t.mode? = some m
  keptBits : s.cfg.present = true →
    t.reg s.cfg.regOpmode &&& ~~~ s.cfg.modeMask = s.reg s.cfg.regOpmode &&& ~~~ s.cfg.modeMask
  others : ∀ a, a ≠ s.cfg.regOpmode → t.reg a = s.reg a
  regsWf : Memory.wf t.chip.regs = true
  chip : t.chip = { s.chip with regs := t.chip.regs, hw := t.chip.hw }
  latch : t.latch = s.latch
  port : t.port = { s.port with settlePending := decide (s.mode? = some .sleep ∧ m ≠ .sleep) }
  bus : s.cfg.present = true →
    t.env.bus =
      s.env.bus ++
        [⟨[addrByte false s.cfg.regOpmode, 0#8], [s.reg s.cfg.regOpmode]⟩,
          ⟨[addrByte true s.cfg.regOpmode, t.reg s.cfg.regOpmode], []⟩]

theorem turn_setmode {s : State} {f : Frame} {fs : List Frame} {k : Nat} (m : Mode) (hc : s.cfg.wf = true)
    (hm : Memory.wf s.chip.regs = true) (hp : PortReady s) (h : HostTurns s (f :: fs))
    (hStmt : stmt f s.inTurn = thenGoto k (exec (setmodeInstr m) s.inTurn)) :
    ∃ t : State, step s = .next t ∧ CameTo s t (⟨f.op, k, f.locals⟩ :: fs) s.caller.result ∧ ModeSet m s t := by
  obtain ⟨w, hExec, hw⟩ := exec_setmode_written (s := s.inTurn) m hc hm h.hostMay hp
  have hGap : atGap s.inTurn.cfg.regOpmode s.inTurn = _ := atGap_nil (a := s.cfg.regOpmode) (s := s.inTurn) rfl
  rw [hGap] at hw
  have hStored : w.reg s.cfg.regOpmode = putField (readValue s.cfg.regOpmode s) s.cfg.modeMask (s.cfg.modeBits m) := hw.stored
  have hInput := congrArg Env.input hw.env
  have hBus := congrArg Env.bus hw.env
  refine ⟨_, turn_thenGoto h hStmt hExec (by exact congrArg Caller.hostPos hw.caller), ⟨hw.cfg, ?_, hInput, hw.inIsr⟩,
    ⟨hw.mode, fun hPresent => ?_, hw.others, hw.regsWf, hw.chip, hw.latch, hw.port, fun hPresent => ?_⟩⟩
  · exact congrArg (fun c : Caller => { c with hostPos := ⟨f.op, k, f.locals⟩ :: fs }) hw.caller
  · refine (congrArg (· &&& ~~~ s.cfg.modeMask) hStored).trans ?_
    rw [putField_keeps _ _ _ ((cfgFacts hc).modeIn m), readValue_opmode hc hPresent]
  · refine (congrArg₂ (fun bus b => bus ++ [⟨[addrByte true s.cfg.regOpmode, b], []⟩]) hBus hStored.symm).trans ?_
    have hRead : readValue s.cfg.regOpmode s.inTurn = s.reg s.cfg.regOpmode := readValue_opmode (s := s.inTurn) hc hPresent
    rw [hRead]
    exact List.append_assoc s.env.bus _ _

/-- What a MAP instruction leaves with nothing in its gap. -/
structure Mapped (e : Event) (s t : State) : Prop where
  field : t.reg (mapField s.cfg e).1 &&& (mapField s.cfg e).2.1 = (mapField s.cfg e).2.2
  keptBits : s.cfg.present = true →
    t.reg (mapField s.cfg e).1 &&& ~~~ (mapField s.cfg e).2.1 = s.reg (mapField s.cfg e).1 &&& ~~~ (mapField s.cfg e).2.1
  others : ∀ a, a ≠ (mapField s.cfg e).1 → t.reg a = s.reg a
  regsWf : Memory.wf t.chip.regs = true
  chip : t.chip = { s.chip with regs := t.chip.regs }
  latch : t.latch = s.latch
  port : t.port = s.port

theorem turn_map {s : State} {f : Frame} {fs : List Frame} {k : Nat} (e : Event) (hc : s.cfg.wf = true)
    (hm : Memory.wf s.chip.regs = true) (hp : PortReady s) (h : HostTurns s (f :: fs))
    (hStmt : stmt f s.inTurn = thenGoto k (exec (mapInstr e) s.inTurn)) :
    ∃ t : State, step s = .next t ∧ CameTo s t (⟨f.op, k, f.locals⟩ :: fs) s.caller.result ∧ Mapped e s t := by
  have hAddr : (mapField s.cfg e).1 = s.cfg.regPinmapA ∨ (mapField s.cfg e).1 = s.cfg.regPinmapB := mapField_addr s.cfg e
  have hSel := mapField_sel hc e
  have hTx := mapTx_ready (s := s.inTurn) hc hp hAddr .host (mapField s.cfg e).2.1 (mapField s.cfg e).2.2
  rw [atGap_nil (by rfl)] at hTx
  have hExec := (exec_map h.hostMay e).trans (congrArg Tx.out hTx)
  have hStored := State.reg_setReg_same (s := s) hm (mapField s.cfg e).1
    (putField (readValue (mapField s.cfg e).1 s) (mapField s.cfg e).2.1 (mapField s.cfg e).2.2)
  refine ⟨_, turn_thenGoto h hStmt hExec (by rfl), ⟨rfl, rfl, rfl, rfl⟩,
    ⟨(congrArg (· &&& (mapField s.cfg e).2.1) hStored).trans (putField_selects _ _ _ hSel), fun hPresent => ?_,
      fun a ha => State.reg_setReg_other s _ ha, State.setReg_wf hm _ _, rfl, rfl, rfl⟩⟩
  refine (congrArg (· &&& ~~~ (mapField s.cfg e).2.1) hStored).trans ?_
  rw [putField_keeps _ _ _ hSel, readValue_pinmap hc hPresent hAddr]

/-- What TOEN leaves with nothing in its gaps. -/
structure TimeoutSet (on : Bool) (s t : State) : Prop where
  field : t.reg s.cfg.regPinmapB &&& s.cfg.pin1Mask = s.cfg.pin1SelTo
  durations : s.cfg.family = .h →
    t.reg s.cfg.regRxto1 = durationByte on s.cfg.toOn1 ∧ t.reg s.cfg.regRxto2 = durationByte on s.cfg.toOn2
  others : ∀ a, a ≠ s.cfg.regPinmapB → (s.cfg.family = .h → a ≠ s.cfg.regRxto1 ∧ a ≠ s.cfg.regRxto2) → t.reg a = s.reg a
  regsWf : Memory.wf t.chip.regs = true
  chip : t.chip = { s.chip with regs := t.chip.regs }
  latchH : s.cfg.family = .h → t.latch = s.latch
  latchS : s.cfg.family = .s → t.latch = { s.latch with bits := s.latch.bits.set .tmo false }
  port : t.port = s.port

theorem toenByte_selects {s : State} (hc : s.cfg.wf = true) : toenByte s &&& s.cfg.pin1Mask = s.cfg.pin1SelTo :=
  putField_selects _ _ _ (cfgFacts hc).toIn

theorem turn_toen {s : State} {f : Frame} {fs : List Frame} {k : Nat} (on : Bool) (hc : s.cfg.wf = true)
    (hm : Memory.wf s.chip.regs = true) (hp : PortReady s) (h : HostTurns s (f :: fs))
    (hStmt : stmt f s.inTurn = thenGoto k (exec (toenInstr on) s.inTurn)) :
    ∃ t : State, step s = .next t ∧ CameTo s t (⟨f.op, k, f.locals⟩ :: fs) s.caller.result ∧ TimeoutSet on s t := by
  have hGaps : s.inTurn.env.gaps = [] := rfl
  obtain ⟨hH, hS⟩ := exec_toen_host h.hostMay on
  cases hf : s.cfg.family
  case h =>
    have hExec := hH hf
    rw [toenH_ready (s := s.inTurn) hc hm hf hp, Tx.out] at hExec
    obtain ⟨hMap, h1, h2, hOthers, hCfg, hPort, -, -, -, hWf⟩ := afterToenH_stored (s := s.inTurn) hc hm hf on
    have q := afterToenH_onlyRegs hGaps on
    have hIsr := (pinsUpdated_afterToenH (s := s.inTurn) hc hf hGaps on).2.2.1
    refine ⟨_, turn_thenGoto h hStmt hExec (by exact congrArg Caller.hostPos q.caller), ⟨hCfg, ?_, q.input, hIsr⟩,
      ⟨(congrArg (· &&& s.cfg.pin1Mask) hMap).trans (toenByte_selects hc), fun _ => ⟨h1, h2⟩,
        fun a hB ha => hOthers a hB (ha hf).1 (ha hf).2, hWf, q.chip, fun _ => q.latch, fun hf' => ?_, hPort⟩⟩
    · exact congrArg (fun c : Caller => { c with hostPos := ⟨f.op, k, f.locals⟩ :: fs }) q.caller
    · simp [hf] at hf'
  case s =>
    have hExec := hS hf
    rw [toenS_ready (s := s.inTurn) hc hp, afterToenS, preempt_nil (afterMapto_gaps hGaps), Tx.out] at hExec
    have q := afterMapto_onlyRegs hGaps
    have st := afterMapto_stored (s := s.inTurn) hm
    have hIsr := (pinsUpdated_afterMapto hGaps).2.2.1
    refine ⟨_, turn_thenGoto h hStmt hExec (by exact congrArg Caller.hostPos q.caller), ⟨st.cfg, ?_, q.input, hIsr⟩,
      ⟨(congrArg (· &&& s.cfg.pin1Mask) st.stored).trans (toenByte_selects hc), fun hf' => ?_, fun a hB _ => st.others a hB,
        st.regsWf, q.chip, fun hf' => ?_, fun _ => ?_, st.port⟩⟩
    · exact congrArg (fun c : Caller => { c with hostPos := ⟨f.op, k, f.locals⟩ :: fs }) q.caller
    · simp [hf] at hf'
    · simp [hf] at hf'
    · exact congrArg (fun l : LatchState => { l with bits := l.bits.set .tmo false }) q.latch

end Sys2Proof.Machine
end

section
/-! SUPPORT. Host turns, continued: clears, DELAY, the power write, register and FIFO accesses. -/

namespace Sys2Proof.Machine

/-! ## The latch and the settle bit -/

theorem flagView_congr {s t : State} (hc : t.cfg = s.cfg) (hl : t.latch = s.latch) (e : Event) :
    flagView t e = flagView s e := by
  simp only [flagView, hc, hl]

theorem clearFlag_latchOnly (e : Event) (s : State) : clearFlag e s = { s with latch := (clearFlag e s).latch } := by
  cases hf : s.cfg.family
  · rw [clearFlag_familyH hf]
    rfl
  · rw [clearFlag_familyS hf]
    rfl

theorem flagView_clearFlag (e : Event) (s : State) : flagView (clearFlag e s) e = false := by
  cases hf : s.cfg.family
  · rw [clearFlag_familyH hf]
    exact flagView_clearShadows hf e
  · rw [clearFlag_familyS hf]
    simp [flagView_clearBit hf]

/-- The flag that CLRF cleared reads false as long as the latch stays. -/
theorem flagView_cleared {s t : State} {e : Event} (hc : t.cfg = s.cfg) (h : t.latch = (clearFlag e s).latch) :
    flagView t e = false := by
  have hCfg : t.cfg = (clearFlag e s).cfg := by rw [hc, clearFlag_latchOnly]
  exact (flagView_congr hCfg h e).trans (flagView_clearFlag e s)

/-- Under family H one clear makes every flag read false. -/
theorem flagView_shadowsZero {s : State} (hf : s.cfg.family = .h) (h1 : s.latch.shadow1 = 0x00#8)
    (h2 : s.latch.shadow2 = 0x00#8) (e : Event) : flagView s e = false := by
  have hLatch : s.latch = (clearShadows s).latch := by
    cases hl : s.latch
    simp_all [clearShadows]
  exact (flagView_congr (s := clearShadows s) (t := s) rfl hLatch e).trans (flagView_clearShadows hf e)

/-- An instruction that writes the latch alone. -/
theorem turn_latch {s : State} {f : Frame} {fs : List Frame} {k : Nat} {o : Out State} {l : LatchState}
    (h : HostTurns s (f :: fs)) (hStmt : stmt f s.inTurn = thenGoto k o) (ho : o = .next { s.inTurn with latch := l }) :
    ∃ t : State,
      step s = .next t ∧ CameTo s t (⟨f.op, k, f.locals⟩ :: fs) s.caller.result ∧ ChipKept s t ∧ t.latch = l :=
  ⟨_, turn_thenGoto h hStmt ho rfl, ⟨rfl, rfl, rfl, rfl⟩, ⟨rfl, rfl, rfl, rfl⟩, rfl⟩

theorem clearFlag_inTurn (e : Event) (s : State) : (clearFlag e s.inTurn).latch = (clearFlag e s).latch := by
  cases hf : s.cfg.family
  · rw [clearFlag_familyH hf, clearFlag_familyH (s := s.inTurn) hf]
    rfl
  · rw [clearFlag_familyS hf, clearFlag_familyS (s := s.inTurn) hf]
    rfl

theorem turn_clrf {s : State} {f : Frame} {fs : List Frame} {k : Nat} (e : Event) (h : HostTurns s (f :: fs))
    (hStmt : stmt f s.inTurn = thenGoto k (exec (clrfInstr e) s.inTurn)) :
    ∃ t : State,
      step s = .next t ∧ CameTo s t (⟨f.op, k, f.locals⟩ :: fs) s.caller.result ∧ ChipKept s t ∧
        t.latch = (clearFlag e s).latch := by
  refine turn_latch h hStmt ((exec_clrfInstr_host h.hostMay e).trans ?_)
  rw [← clearFlag_inTurn, ← clearFlag_latchOnly]

/-- What the consumption clear leaves of the latch: both shadow bytes 0 under family H, nothing new under family S. -/
structure Consumed (s t : State) : Prop extends ChipKept s t where
  latchH : s.cfg.family = .h → t.latch = { s.latch with shadow1 := 0x00#8, shadow2 := 0x00#8 }
  latchS : s.cfg.family = .s → t.latch = s.latch

theorem turn_consume {s : State} {f : Frame} {fs : List Frame} {k : Nat} (e : Event) (h : HostTurns s (f :: fs))
    (hStmt : stmt f s.inTurn = consume e k s.inTurn) :
    ∃ t : State, step s = .next t ∧ CameTo s t (⟨f.op, k, f.locals⟩ :: fs) s.caller.result ∧ Consumed s t := by
  cases hf : s.cfg.family
  · have hClear : consume e k s.inTurn = thenGoto k (exec (clrfInstr e) s.inTurn) := by
      have hRow : exec (clrfInstr e) s.inTurn = clrfOp e s.inTurn := by cases e <;> rfl
      simp only [consume, show s.inTurn.cfg.family = .h from hf, hRow]
    obtain ⟨t, hStep, hCame, hKept, hLatch⟩ := turn_clrf e h (hStmt.trans hClear)
    rw [clearFlag_familyH hf] at hLatch
    exact ⟨t, hStep, hCame, hKept, fun _ => hLatch, fun hf' => by simp [hf] at hf'⟩
  · have hGoto : consume e k s.inTurn = .next (goto k s.inTurn) := by
      simp only [consume, show s.inTurn.cfg.family = .s from hf]
    obtain ⟨t, hStep, hCame, hKept⟩ := turn_goto h (hStmt.trans hGoto)
    exact ⟨t, hStep, hCame, hKept.toChipKept, fun hf' => by simp [hf] at hf', fun _ => hKept.latch⟩

theorem turn_delay {s : State} {f : Frame} {fs : List Frame} {k : Nat} (h : HostTurns s (f :: fs))
    (hStmt : stmt f s.inTurn = thenGoto k (exec .delay s.inTurn)) :
    ∃ t : State,
      step s = .next t ∧ CameTo s t (⟨f.op, k, f.locals⟩ :: fs) s.caller.result ∧ t.chip = s.chip ∧ t.latch = s.latch ∧
        t.port = { s.port with settlePending := false } := by
  rw [exec_delay, admit_host h.hostMay [.host] (by simp)] at hStmt
  exact ⟨_, turn_thenGoto h hStmt rfl rfl, ⟨rfl, rfl, rfl, rfl⟩, rfl, rfl, rfl⟩

/-! ## The power -/

/-- The power is `x`, and nothing else of the block changed. -/
structure PowerSet (x : Int) (s t : State) : Prop where
  chip : t.chip = { s.chip with outputPower := x }
  latch : t.latch = s.latch
  pins : t.pins = s.pins
  port : t.port = s.port

theorem turn_power {s : State} {f : Frame} {fs : List Frame} {k : Nat} {x : Int} (hp : PortReady s)
    (h : HostTurns s (f :: fs)) (hStmt : stmt f s.inTurn = thenGoto k (writePower .host x s.inTurn).out) :
    ∃ t : State, step s = .next t ∧ CameTo s t (⟨f.op, k, f.locals⟩ :: fs) s.caller.result ∧ PowerSet x s t := by
  rw [writePower_ready (s := s.inTurn) hp] at hStmt
  exact ⟨_, turn_thenGoto h hStmt rfl rfl, ⟨rfl, rfl, rfl, rfl⟩, ⟨rfl, rfl, rfl, rfl⟩⟩

/-! ## Register reads -/

theorem readEffect_chip {s : State} {a : Addr} (ha : a ≠ s.cfg.regFifo) :
    (readEffect a s).chip = { s.chip with hw := (readEffect a s).chip.hw } := by
  have hRegs := readEffect_chip_regs s a
  have hCrc := readEffect_chip_crcOk s a
  have hRssi := readEffect_chip_rssiRaw s a
  have hPower := readEffect_chip_outputPower s a
  have hFifo := readEffect_fifo ha
  cases hChip : (readEffect a s).chip
  simp_all

/-- What a register read leaves away from REG_FIFO. -/
structure RegRead (a : Addr) (s t : State) : Prop where
  chip : t.chip = { s.chip with hw := t.chip.hw }
  plain : a ≠ s.cfg.regIrq1 → a ≠ s.cfg.regIrq2 → t.chip = s.chip ∧ t.pins = s.pins
  latch : t.latch = s.latch
  port : t.port = s.port
  bus : t.env.bus = s.env.bus ++ [⟨[addrByte false a, 0#8], [readValue a s]⟩]

theorem resultByte_byte {s : State} {b : Byte} (h : s.caller.result = .byte b) : resultByte s = b := by
  simp only [resultByte, h]

/-- A statement that reads a register and goes on with the byte. -/
theorem turn_rdreg {s : State} {f : Frame} {fs : List Frame} {a : Addr} {φ : State → State} {pos : Byte → List Frame}
    (ha : a ≠ s.cfg.regFifo) (hp : PortReady s) (h : HostTurns s (f :: fs))
    (hStmt : stmt f s.inTurn = onNext φ (rdregOp a 0#8 s.inTurn))
    (hMoves : ∀ u : State, u.caller.hostPos = f :: fs → φ u = u.at (pos (resultByte u))) :
    ∃ t : State,
      step s = .next t ∧ CameTo s t (pos (readValue a s)) (.byte (readValue a s)) ∧ RegRead a s t := by
  have hRead := rdregOp_ready (d := 0#8) (.inl h.hostMay) (s := s.inTurn) hp ha
  rw [State.answer_host (by simp)] at hRead
  have hStep := turn_onNext h hStmt hRead
  rw [hMoves _ (by simp [h.position]), resultByte_byte rfl] at hStep
  have hValue : readValue a s.inTurn = readValue a s := rfl
  rw [hValue] at hStep
  refine ⟨_, hStep, ⟨?_, ?_, ?_, ?_⟩, ⟨readEffect_chip (s := s.inTurn) ha, fun h1 h2 => ?_, ?_, ?_, ?_⟩⟩
  · simp [State.at]
  · simp [State.at]
  · simp [State.at]
  · exact (PinsFell.readEffect s.inTurn a).inIsr
  · rw [readEffect_plain (s := s.inTurn) ha h1 h2]
    exact ⟨rfl, rfl⟩
  · simp [State.at]
  · simp [State.at]
  · simp [State.at, State.sentFrame]

/-! ## FIFO accesses -/

/-- What a FIFO read of one byte leaves, `q` being what is left in the FIFO. -/
structure Popped (q : List Byte) (s t : State) : Prop where
  fifo : t.chip.fifo = q
  regs : t.chip.regs = s.chip.regs
  power : t.chip.outputPower = s.chip.outputPower
  latch : t.latch = s.latch
  port : t.port = s.port

theorem fifoSlots_one {s : State} {b : Byte} {q : List Byte} (hPresent : s.cfg.present = true)
    (hFifo : s.chip.fifo = b :: q) : fifoSlots 1 s = [b] := by
  simp [fifoSlots, fifoSlot, hPresent, hFifo]

/-- A statement that pops the oldest byte and goes on with it. -/
theorem turn_fiford {s : State} {f : Frame} {fs : List Frame} {b : Byte} {q : List Byte} {φ : State → State}
    {pos : Byte → List Frame} (hPresent : s.cfg.present = true) (hFifo : s.chip.fifo = b :: q) (hp : PortReady s)
    (h : HostTurns s (f :: fs)) (hStmt : stmt f s.inTurn = onNext φ (exec (.fiford [0#8]) s.inTurn))
    (hMoves : ∀ u : State, u.caller.hostPos = f :: fs → φ u = u.at (pos (resultByte u))) :
    ∃ t : State, step s = .next t ∧ CameTo s t (pos b) (.bytes [b]) ∧ Popped q s t := by
  obtain ⟨u, hRead, r⟩ := exec_fiford_read (s := s.inTurn) h.hostMay hp [0#8]
  have hSlots : fifoSlots 1 s.inTurn = [b] := fifoSlots_one (s := s.inTurn) hPresent hFifo
  have hCaller : u.caller = { s.caller with result := .bytes [b] } := by rw [r.caller, ← hSlots]; rfl
  have hByte : resultByte u = b := by simp only [resultByte, hCaller, List.headD_cons]
  have hStep := turn_onNext h hStmt hRead
  rw [hMoves _ (by rw [hCaller]; exact h.position), hByte] at hStep
  refine ⟨_, hStep, ⟨r.cfg, ?_, ?_, ?_⟩, ⟨?_, ?_, ?_, r.latch, r.port⟩⟩
  · simp only [State.at, hCaller]
  · simp [State.at, r.env, State.sentFrame]
  · exact (congrArg Pins.inIsr r.pins).trans (PinsFell.fifoPop s.inTurn 1).inIsr
  · simp only [State.at, r.chip, fifoPop_fifo]
    simp [hFifo]
  · simp [State.at, r.chip]
  · simp [State.at, r.chip]

theorem turn_fifowr {s : State} {f : Frame} {fs : List Frame} {k : Nat} {bytes : List Byte} (hp : PortReady s)
    (hLen : bytes.length ≤ s.cfg.maxPayload + 2) (h : HostTurns s (f :: fs))
    (hStmt : stmt f s.inTurn = thenGoto k (exec (.fifowr bytes) s.inTurn)) :
    ∃ t : State,
      step s = .next t ∧ CameTo s t (⟨f.op, k, f.locals⟩ :: fs) s.caller.result ∧
        t.chip = { s.chip with fifo := s.chip.fifo ++ bytes } ∧ t.latch = s.latch ∧ t.pins = s.pins ∧ t.port = s.port := by
  rw [exec_fifowr_host h.hostMay, fifowr_ready (s := s.inTurn) hp _ hLen, Tx.out] at hStmt
  exact ⟨_, turn_thenGoto h hStmt rfl rfl, ⟨rfl, rfl, rfl, rfl⟩, rfl, rfl, rfl, rfl⟩

/-! ## Flag reads -/

/-- A statement that reads a flag view and goes on with it. -/
theorem turn_rdf {s : State} {f : Frame} {fs : List Frame} {e : Event} {φ : State → State} {pos : Bool → List Frame}
    (h : HostTurns s (f :: fs)) (hStmt : stmt f s.inTurn = onNext φ (rdfOp e s.inTurn))
    (hMoves : ∀ u : State, u.caller.hostPos = f :: fs → φ u = u.at (pos (resultFlag u))) :
    ∃ t : State, step s = .next t ∧ CameTo s t (pos (flagView s e)) (.flag (flagView s e)) ∧ BlockKept s t := by
  rw [rdfOp_host h.hostMay] at hStmt
  have hStep := turn_onNext h hStmt rfl
  rw [hMoves _ (by exact h.position)] at hStep
  exact ⟨_, hStep, ⟨rfl, rfl, rfl, rfl⟩, ⟨⟨rfl, rfl, rfl, rfl⟩, rfl⟩⟩

end Sys2Proof.Machine
end

section
/-! SUPPORT. The pseudo-instructions of few statements: WAITF, SETPWR, GETPWR, SETADDR, SLEEP, WAKE (R210, R213, R214,
R223 to R226). -/

namespace Sys2Proof.Machine

/-! ## WAITF -/

theorem stmtWaitf_event {first e : Event} {rest : List Event} {f : Frame} (h : (first :: rest)[f.idx]? = some e)
    (s : State) :
    stmtWaitf first rest f s =
      onNext (fun t => goto (f.idx + 1) (bindTop (fun l => { l with flags := l.flags ++ [resultFlag t] }) t)) (rdfOp e s) := by
  simp only [stmtWaitf, h]

theorem stmtWaitf_end {first : Event} {rest : List Event} {f : Frame} (h : (first :: rest)[f.idx]? = none) (s : State) :
    stmtWaitf first rest f s =
      if f.locals.flags.any id then .next (ret (.flags f.locals.flags) s)
      else .next (goto 0 (bindTop (fun _ => .fresh) s)) := by
  simp only [stmtWaitf, h]

/-- Settles O51: an event is one RDF; the end of the snapshot returns it or starts again. -/
theorem waitfReturnsOnlyOnAFlag : Obligations.WaitfReturnsOnlyOnAFlag := by
  intro s first rest f fs gaps hOp hPos hRun hInit at'
  have hTurn : hostTurn gaps s = stmtWaitf first rest f (handOver .host gaps s) := by
    rw [hostTurn_cons hRun hPos, stmt, hOp]
  refine ⟨fun e he => ?_, fun hEnd => ⟨fun hTrue => ?_, fun hNone => ?_⟩⟩
  · rw [hTurn, stmtWaitf_event he, rdfOp_host (s := handOver .host gaps s) ⟨rfl, hInit⟩, onNext, goto_bindTop_at (by exact hPos)]
    rfl
  · have hAny : f.locals.flags.any id = true := by simpa using hTrue
    rw [hTurn, stmtWaitf_end hEnd, if_pos hAny]
    simp [ret, handOver, hPos, at']
  · have hAny : ¬ f.locals.flags.any id = true := by simpa using hNone
    rw [hTurn, stmtWaitf_end hEnd, if_neg hAny, goto_bindTop_at (by exact hPos)]
    rfl

/-! ## Calls -/

/-- The Host has been handed the call `p`, and `rest` is scheduled behind it. -/
structure Called (p : Pseudo) (rest : List Input) (s t : State) : Prop extends BlockKept s t where
  cfg : t.cfg = s.cfg
  caller : t.caller = { s.caller with hostPos := [⟨p, 0, .fresh⟩] }
  input : t.env.input = rest

theorem beginCall_initOk {s : State} (h : s.caller.initFailed = false) (p : Pseudo) :
    beginCall p s = .next (pushFrame p s) := by
  cases p <;> simp [beginCall, h]

/-- The call entry of a Host between operations pushes a frame. -/
theorem turn_call {s : State} {p : Pseudo} {rest : List Input} (h : HostTurns s []) (hInput : s.env.input = .call p :: rest) :
    ∃ t : State, step s = .next t ∧ Called p rest s t := by
  have hStep : step s = beginCall p (dropInput s) := by
    simp [step, turn, hInput, callTurn, h.running, h.position]
  rw [beginCall_initOk (by exact h.initOk), pushFrame, dropInput_cons hInput] at hStep
  exact ⟨_, hStep, ⟨⟨rfl, rfl, rfl, rfl⟩, rfl⟩, rfl, by simp [h.position], rfl⟩

theorem Called.turns {p : Pseudo} {rest : List Input} {s t : State} (k : Called p rest s t) (h : HostTurns s [])
    (hRest : rest = [] ∨ ∃ q more, rest = .call q :: more) : HostTurns t [⟨p, 0, .fresh⟩] := by
  refine ⟨by rw [k.input]; exact hRest, by rw [k.caller], ?_, by rw [k.caller]; exact h.initOk⟩
  have hRun := h.running
  simpa only [hostMayAct, k.caller, k.pins] using hRun

theorem Called.hostPos {p : Pseudo} {rest : List Input} {s t : State} (k : Called p rest s t) :
    t.caller.hostPos = [⟨p, 0, .fresh⟩] := by
  rw [k.caller]

theorem BlockKept.portReady {s t : State} (k : BlockKept s t) (h : PortReady s) : PortReady t := by
  rw [PortReady, k.port]
  exact h

theorem settled_port {p : PortState} (h : p.settlePending = false) : { p with settlePending := false } = p := by
  rw [← h]

/-! ## A statement that faults in the settle window -/

/-- The Host has stopped on an access of `a` in the settle window, and nothing of the block changed. -/
structure StoppedAt (a : Addr) (s t : State) : Prop extends BlockKept s t where
  faults : t.caller.faults = insertFault (.unsettledAccess a) s.caller.faults
  stopped : t.caller.hostStopped = true
  hostPos : t.caller.hostPos = []

theorem StoppedAt.recorded {a : Addr} {s t : State} (h : StoppedAt a s t) : Fault.unsettledAccess a ∈ t.caller.faults := by
  rw [h.faults]
  exact mem_insertFault _ _

/-- A fault has ended the expansion: there is no frame to go on in (R211). -/
theorem goto_ended {s : State} (h : s.caller.hostPos = []) (k : Nat) : goto k s = s := by
  simp only [goto, setTop, h]

/-- A statement whose transaction at `a` is the first of the operation in hand, in the settle window. -/
theorem turn_unsettled {s : State} {f : Frame} {fs : List Frame} {k : Nat} {a : Addr} {t : Tx Unit}
    (h : HostTurns s (f :: fs)) (hClosed : s.port.busSelected = false) (hSettle : s.port.settlePending = true)
    (hStmt : stmt f s.inTurn = thenGoto k (bracket .host a s.inTurn t).out) :
    ∃ u : State, step s = .next u ∧ StoppedAt a s u := by
  rw [bracket_unsettled (s := s.inTurn) hClosed hSettle, Tx.out] at hStmt
  have hStep := turn_onNext h hStmt rfl
  rw [goto_ended (by rfl)] at hStep
  exact ⟨_, hStep, ⟨⟨rfl, rfl, rfl, rfl⟩, rfl⟩, rfl, rfl, rfl⟩

theorem turn_rdreg_unsettled {s : State} {f : Frame} {fs : List Frame} {k : Nat} {a : Addr} (ha : a ≠ s.cfg.regFifo)
    (h : HostTurns s (f :: fs)) (hClosed : s.port.busSelected = false) (hSettle : s.port.settlePending = true)
    (hStmt : stmt f s.inTurn = thenGoto k (rdregOp a 0#8 s.inTurn)) :
    ∃ u : State, step s = .next u ∧ StoppedAt a s u := by
  rw [rdregOp_host (s := s.inTurn) h.hostMay ha, rdreg_unsettled (s := s.inTurn) hClosed hSettle, Tx.outWith,
    State.answer_host (by rfl)] at hStmt
  have hStep := turn_onNext h hStmt rfl
  rw [goto_ended (by rfl)] at hStep
  exact ⟨_, hStep, ⟨⟨rfl, rfl, rfl, rfl⟩, rfl⟩, rfl, rfl, rfl⟩

/-! ## SETADDR -/

theorem stmt_setaddr {s : State} {fs : List Frame} (h : HostTurns s fs) (addr : Byte) (l : Locals) :
    stmt ⟨.setaddr addr, 0, l⟩ s.inTurn = thenGoto 1 (writeNodeAddress addr s.inTurn).out :=
  congrArg (thenGoto 1) (admit_host h.hostMay [.host] (by simp))

theorem turn_setaddr {s : State} {addr : Byte} {l : Locals} {fs : List Frame}
    (h : HostTurns s (⟨.setaddr addr, 0, l⟩ :: fs)) (hp : PortReady s) :
    ∃ t : State,
      step s = .next t ∧ CameTo s t (⟨.setaddr addr, 1, l⟩ :: fs) s.caller.result ∧ t.chip = s.chip ∧ t.latch = s.latch ∧
        t.pins = s.pins ∧ t.port = s.port ∧
        t.env.bus = s.env.bus ++ [⟨[addrByte true Config.nodeAddressRegister, addr], []⟩] := by
  have hStmt := stmt_setaddr h addr l
  rw [writeNodeAddress, bracket_ready (s := s.inTurn) hp, Tx.out] at hStmt
  exact ⟨_, turn_thenGoto h hStmt rfl rfl, ⟨rfl, rfl, rfl, rfl⟩, rfl, rfl, rfl, rfl, rfl⟩

/-- Settles O54: a bracket around nothing but its frame. -/
theorem setaddrChangesNothingOfTheBlock : Obligations.SetaddrChangesNothingOfTheBlock := by
  intro s addr fs hAlone hClosed
  have h := hostTurns_of_alone hAlone
  refine ⟨fun hSettled => ?_, fun hSettle => ?_⟩
  · obtain ⟨u, hFirst, c, hChip, hLatch, hPins, hPort, hBus⟩ := turn_setaddr h ⟨hClosed, hSettled⟩
    obtain ⟨t, hLast, c', b⟩ := turn_ret (c.turns h) rfl
    exact ⟨t, (run_step hFirst).trans (run_one hLast), (c.trans c').caller, b.chip.trans hChip, b.latch.trans hLatch,
      b.pins.trans hPins, b.port.trans hPort, (c.trans c').cfg, b.bus.trans hBus⟩
  · obtain ⟨t, hStep, k⟩ := turn_unsettled h hClosed hSettle (stmt_setaddr h addr .fresh)
    exact ⟨t, hStep, k.chip, k.latch, k.pins, k.port, k.faults, k.stopped, k.hostPos⟩

/-! ## SETPWR and GETPWR -/

theorem stmt_setpwr {s : State} {fs : List Frame} (h : HostTurns s fs) (x : Int) (l : Locals) :
    stmt ⟨.setpwr x, 0, l⟩ s.inTurn = thenGoto 1 (writePower .host (clampInt x s.cfg.pMin s.cfg.pMax) s.inTurn).out :=
  congrArg (thenGoto 1) (admit_host h.hostMay [.host] (by simp))

/-- SETPWR of a settled chip leaves the clamped power. -/
theorem setpwr_runs {s : State} {x : Int} {l : Locals} {fs : List Frame} (h : HostTurns s (⟨.setpwr x, 0, l⟩ :: fs))
    (hp : PortReady s) :
    ∃ t : State,
      Host.Core.run core 2 s = .next t ∧ CameTo s t fs .none ∧ PowerSet (clampInt x s.cfg.pMin s.cfg.pMax) s t := by
  obtain ⟨u, hFirst, c, w⟩ := turn_power hp h (stmt_setpwr h x l)
  obtain ⟨t, hLast, c', b⟩ := turn_ret (c.turns h) rfl
  exact ⟨t, (run_step hFirst).trans (run_one hLast), c.trans c', b.chip.trans w.chip, b.latch.trans w.latch,
    b.pins.trans w.pins, b.port.trans w.port⟩

/-- GETPWR of a settled chip returns the power, and changes nothing of the block. -/
theorem getpwr_runs {s : State} {l : Locals} {fs : List Frame} (h : HostTurns s (⟨.getpwr, 0, l⟩ :: fs))
    (hc : s.cfg.wf = true) (hp : PortReady s) :
    ∃ (t : State) (x : Int),
      Host.Core.run core 2 s = .next t ∧ CameTo s t fs (.power x) ∧ (s.cfg.present = true → x = s.chip.outputPower) ∧
        t.chip = s.chip ∧ t.latch = s.latch ∧ t.pins = s.pins ∧ t.port = s.port := by
  obtain ⟨hFifo, hIrq1, hIrq2⟩ := power_ne hc
  obtain ⟨u, hFirst, c, r⟩ := turn_rdreg (pos := fun _ => ⟨.getpwr, 1, l⟩ :: fs) hFifo hp h rfl fun v hv => goto_at hv 1
  obtain ⟨hChip, hPins⟩ := r.plain hIrq1 hIrq2
  obtain ⟨t, hLast, c', b⟩ := turn_ret (c.turns h) rfl
  refine ⟨t, _, (run_step hFirst).trans (run_one hLast), c.trans c', fun hPresent => ?_, b.chip.trans hChip,
    b.latch.trans r.latch, b.pins.trans hPins, b.port.trans r.port⟩
  simp [powerRead, c.cfg, hPresent, hChip]

/-- Settles O53: the two calls one after the other; in the settle window the first transaction of either faults. -/
theorem setpwrThenGetpwrClamps : Obligations.SetpwrThenGetpwrClamps := by
  intro s x hPos hRun hInit hClosed hc
  refine ⟨fun hSettled hInput => ?_, fun p hp hSettle hInput => ?_⟩
  · have h : HostTurns s [] := ⟨.inr ⟨_, _, hInput⟩, hPos, hRun, hInit⟩
    obtain ⟨u1, hStep1, k1⟩ := turn_call h hInput
    have h1 := k1.turns h (.inr ⟨_, _, rfl⟩)
    obtain ⟨u2, hRun2, c2, w⟩ := setpwr_runs h1 (k1.portReady ⟨hClosed, hSettled⟩)
    have h2 := c2.turns h1
    obtain ⟨u3, hStep3, k3⟩ := turn_call h2 (c2.input.trans k1.input)
    have h3 := k3.turns h2 (.inl rfl)
    have hPort3 : u3.port = s.port := by rw [k3.port, w.port, k1.port]
    have hCfg3 : u3.cfg = s.cfg := by rw [k3.cfg, c2.cfg, k1.cfg]
    obtain ⟨t, y, hRun4, c4, hy, hChip, hLatch, hPins, hPort⟩ :=
      getpwr_runs h3 (by rw [hCfg3]; exact hc) (by rw [PortReady, hPort3]; exact ⟨hClosed, hSettled⟩)
    have hChip3 : u3.chip = { s.chip with outputPower := clampInt x s.cfg.pMin s.cfg.pMax } := by
      rw [k3.chip, w.chip, k1.chip, k1.cfg]
    refine ⟨t, ?_, c4.hostPos, c4.input.trans k3.input, fun hPresent => ?_, hChip.trans hChip3, ?_, ?_, hPort.trans hPort3, ?_⟩
    · exact (run_step hStep1).trans ((run_add core hRun2).trans ((run_step hStep3).trans hRun4))
    · rw [c4.result, hy (by rw [hCfg3]; exact hPresent), hChip3]
      rfl
    · rw [hLatch, k3.latch, w.latch, k1.latch]
    · rw [hPins, k3.pins, w.pins, k1.pins]
    · rw [c4.faults, k3.caller, c2.faults, k1.caller]
  · have h : HostTurns s [] := ⟨.inr ⟨_, _, hInput⟩, hPos, hRun, hInit⟩
    obtain ⟨u, hStep, k⟩ := turn_call h hInput
    have hu := k.turns h (.inl rfl)
    have hStopped : ∃ t : State, step u = .next t ∧ StoppedAt u.cfg.regPower u t := by
      have hClosed' : u.port.busSelected = false := by rw [k.port]; exact hClosed
      have hSettle' : u.port.settlePending = true := by rw [k.port]; exact hSettle
      rcases hp with rfl | rfl
      · exact turn_unsettled hu hClosed' hSettle' (stmt_setpwr hu x .fresh)
      · exact turn_rdreg_unsettled (power_ne (by rw [k.cfg]; exact hc)).1 hu hClosed' hSettle' rfl
    obtain ⟨t, hLast, q⟩ := hStopped
    rw [k.cfg] at q
    refine ⟨t, (run_step hStep).trans (run_one hLast), ?_, q.recorded, q.stopped, q.hostPos, q.chip.trans k.chip,
      q.latch.trans k.latch, q.pins.trans k.pins, q.port.trans k.port, q.bus.trans k.bus⟩
    rw [q.faults, k.caller]

/-! ## SLEEP and WAKE -/

theorem mode_congr_chip {s t : State} (hc : t.cfg = s.cfg) (h : t.chip = s.chip) : t.mode? = s.mode? :=
  State.mode?_congr hc (congrArg Chip.regs h)

/-- What SLEEP or WAKE leaves, `m` being the mode it sets. -/
structure ModeOnly (m : Mode) (s t : State) : Prop where
  mode : t.mode? = some m
  keptBits : s.cfg.present = true →
    t.reg s.cfg.regOpmode &&& ~~~ s.cfg.modeMask = s.reg s.cfg.regOpmode &&& ~~~ s.cfg.modeMask
  others : ∀ a, a ≠ s.cfg.regOpmode → t.reg a = s.reg a
  regsWf : Memory.wf t.chip.regs = true
  latch : t.latch = s.latch
  port : t.port = s.port

/-- A mode write of a settled chip, once its settle window is over. -/
theorem ModeSet.settled {m : Mode} {s t u : State} (w : ModeSet m s t) (hp : PortReady s) (hc : u.cfg = t.cfg)
    (hChip : u.chip = t.chip) (hLatch : u.latch = t.latch) (hPort : u.port = { t.port with settlePending := false }) :
    ModeOnly m s u := by
  have hReg := State.reg_congr (congrArg Chip.regs hChip)
  refine ⟨(mode_congr_chip hc hChip).trans w.mode, fun hPresent => ?_, fun a ha => ?_, ?_, hLatch.trans w.latch, ?_⟩
  · rw [hReg, w.keptBits hPresent]
  · rw [hReg, w.others a ha]
  · rw [hChip, w.regsWf]
  · rw [hPort, w.port]
    exact settled_port hp.2

/-- SLEEP of a settled chip. -/
theorem sleep_runs {s : State} {l : Locals} {fs : List Frame} (h : HostTurns s (⟨.sleep, 0, l⟩ :: fs))
    (hc : s.cfg.wf = true) (hm : Memory.wf s.chip.regs = true) (hp : PortReady s) :
    ∃ t : State, Host.Core.run core 2 s = .next t ∧ CameTo s t fs .none ∧ ModeOnly .sleep s t := by
  obtain ⟨u, hFirst, c, w⟩ := turn_setmode (k := 1) .sleep hc hm hp h rfl
  obtain ⟨t, hLast, c', b⟩ := turn_ret (c.turns h) rfl
  have hSettled : u.port.settlePending = false := by simp [w.port]
  exact ⟨t, (run_step hFirst).trans (run_one hLast), c.trans c',
    w.settled hp c'.cfg b.chip b.latch (b.port.trans (settled_port hSettled).symm)⟩

/-- WAKE of a settled chip. -/
theorem wake_runs {s : State} {l : Locals} {fs : List Frame} (h : HostTurns s (⟨.wake, 0, l⟩ :: fs))
    (hc : s.cfg.wf = true) (hm : Memory.wf s.chip.regs = true) (hp : PortReady s) :
    ∃ t : State, Host.Core.run core 3 s = .next t ∧ CameTo s t fs .none ∧ ModeOnly .standby s t := by
  obtain ⟨u, hFirst, c1, w⟩ := turn_setmode (k := 1) .standby hc hm hp h rfl
  obtain ⟨v, hDelay, c2, hChip, hLatch, hPort⟩ := turn_delay (k := 2) (c1.turns h) rfl
  obtain ⟨t, hLast, c3, b⟩ := turn_ret ((c1.trans c2).turns h) rfl
  exact ⟨t, (run_step hFirst).trans ((run_step hDelay).trans (run_one hLast)), (c1.trans c2).trans c3,
    w.settled hp (c3.cfg.trans c2.cfg) (b.chip.trans hChip) (b.latch.trans hLatch) (b.port.trans hPort)⟩

/-- Settles O55: each call, on what the one before it left. -/
theorem sleepThenWakePreservesTheRest : Obligations.SleepThenWakePreservesTheRest := by
  intro s hInput hPos hRun hInit hp hc hm
  have h : HostTurns s [] := ⟨.inr ⟨_, _, hInput⟩, hPos, hRun, hInit⟩
  obtain ⟨u1, hStep1, k1⟩ := turn_call h hInput
  have h1 := k1.turns h (.inr ⟨_, _, rfl⟩)
  obtain ⟨u2, hRun2, c2, w2⟩ := sleep_runs h1 (by rw [k1.cfg]; exact hc) (by rw [k1.chip]; exact hm) (k1.portReady hp)
  have h2 := c2.turns h1
  have hPort2 : u2.port = s.port := w2.port.trans k1.port
  have hLatch2 : u2.latch = s.latch := w2.latch.trans k1.latch
  have hSlept := (run_step hStep1).trans hRun2
  refine ⟨⟨u2, hSlept, w2.mode, hPort2, hLatch2⟩, ?_⟩
  obtain ⟨u3, hStep3, k3⟩ := turn_call h2 (c2.input.trans k1.input)
  have h3 := k3.turns h2 (.inl rfl)
  have hCfg1 := k1.cfg
  have hCfg3 : u3.cfg = s.cfg := by rw [k3.cfg, c2.cfg, k1.cfg]
  have hReg1 := State.reg_congr (congrArg Chip.regs k1.chip)
  have hReg3 := State.reg_congr (congrArg Chip.regs k3.chip)
  obtain ⟨t, hRun4, c4, w4⟩ := wake_runs h3 (by rw [hCfg3]; exact hc) (by rw [k3.chip]; exact w2.regsWf)
    (by rw [PortReady, k3.port, hPort2]; exact hp)
  refine ⟨t, (run_add core hSlept).trans ((run_step hStep3).trans hRun4), w4.mode, ?_, fun hPresent => ?_, fun a ha => ?_, ?_,
    c4.hostPos, c4.input.trans k3.input, ?_⟩
  · rw [w4.port, k3.port, hPort2]
  · have hKept2 := w2.keptBits (by rw [hCfg1]; exact hPresent)
    have hKept4 := w4.keptBits (by rw [hCfg3]; exact hPresent)
    rw [hCfg1, hReg1] at hKept2
    rw [hCfg3, hReg3] at hKept4
    exact hKept4.trans hKept2
  · rw [w4.others a (by rw [hCfg3]; exact ha), hReg3, w2.others a (by rw [hCfg1]; exact ha), hReg1]
  · rw [w4.latch, k3.latch, hLatch2]
  · rw [c4.faults, k3.caller, c2.faults, k1.caller]

end Sys2Proof.Machine
end

section
/-! SUPPORT. POLLRX and STARTRX (R215, R217). -/

namespace Sys2Proof.Machine

/-! ## POLLRX -/

/-- The first two statements of a poll that finds F[PR] false. -/
theorem poll_negative {s : State} {fs : List Frame} (h : HostTurns s (⟨.pollrx, 0, .fresh⟩ :: fs))
    (hFlag : flagView s .pr = false) :
    ∃ t : State,
      Host.Core.run core 2 s = .next t ∧ CameTo s t fs (.payloadFlags false s.cfg.rssiInvalid false) ∧ BlockKept s t := by
  obtain ⟨u, hFirst, c, b⟩ := turn_rdf (pos := fun x => ⟨.pollrx, 1, { Locals.fresh with flags := [x] }⟩ :: fs) h rfl
    fun v hv => goto_bindTop_at hv 1 _
  rw [hFlag] at c
  obtain ⟨t, hLast, c', b'⟩ := turn_ret (c.turns h) rfl
  have c' := c.trans c'
  rw [State.inTurn_cfg, c.cfg] at c'
  exact ⟨t, (run_step hFirst).trans (run_one hLast), c',
    ⟨⟨b'.chip.trans b.chip, b'.pins.trans b.pins, b'.port.trans b.port, b'.bus.trans b.bus⟩, b'.latch.trans b.latch⟩⟩

/-- The first three statements of a poll that finds F[PR] true: the flag is read and consumed. -/
theorem poll_consumes {s : State} {fs : List Frame} (h : HostTurns s (⟨.pollrx, 0, .fresh⟩ :: fs))
    (hFlag : flagView s .pr = true) :
    ∃ (t : State) (l : Locals) (r : Result),
      Host.Core.run core 3 s = .next t ∧ CameTo s t (⟨.pollrx, 3, l⟩ :: fs) r ∧ Consumed s t := by
  obtain ⟨u, hFirst, c, b⟩ := turn_rdf (pos := fun x => ⟨.pollrx, 1, { Locals.fresh with flags := [x] }⟩ :: fs) h rfl
    fun v hv => goto_bindTop_at hv 1 _
  rw [hFlag] at c
  obtain ⟨v, hGoto, c2, b2⟩ := turn_goto (k := 2) (c.turns h) rfl
  have c2 := c.trans c2
  obtain ⟨t, hLast, c3, w⟩ := turn_consume .pr (k := 3) (c2.turns h) rfl
  refine ⟨t, _, _, (run_step hFirst).trans ((run_step hGoto).trans (run_one hLast)), c2.trans c3, ⟨?_, ?_, ?_, ?_⟩, fun hf => ?_,
    fun hf => ?_⟩
  · rw [w.chip, b2.chip, b.chip]
  · rw [w.pins, b2.pins, b.pins]
  · rw [w.port, b2.port, b.port]
  · rw [w.bus, b2.bus, b.bus]
  · rw [w.latchH (by rw [c2.cfg]; exact hf), b2.latch, b.latch]
  · rw [w.latchS (by rw [c2.cfg]; exact hf), b2.latch, b.latch]

/-- The two reads of a positive poll: RSSI and a fresh status byte, of a present chip. -/
structure PollRead (v : Byte) (s t : State) : Prop where
  crc : bitOf v s.cfg.locCrc.bit = s.chip.crcOk
  chip : t.chip = { s.chip with hw := t.chip.hw }
  latch : t.latch = s.latch
  port : t.port = s.port
  bus : t.env.bus =
    s.env.bus ++
      [⟨[addrByte false s.cfg.regRssi, 0#8], [s.chip.rssiRaw]⟩, ⟨[addrByte false (s.cfg.regIrq s.cfg.locCrc.reg), 0#8], [v]⟩]

theorem poll_reads {s : State} {l : Locals} {fs : List Frame} (h : HostTurns s (⟨.pollrx, 3, l⟩ :: fs))
    (hp : PortReady s) (hc : s.cfg.wf = true) (hPresent : s.cfg.present = true) :
    ∃ (t : State) (v : Byte) (r : Result),
      Host.Core.run core 2 s = .next t ∧
        CameTo s t (⟨.pollrx, 5, { l with q := s.chip.rssiRaw, v := v }⟩ :: fs) r ∧ PollRead v s t := by
  obtain ⟨hFifo, hIrq1, hIrq2, -⟩ := rssi_ne hc
  obtain ⟨u, hFirst, c, r⟩ := turn_rdreg (pos := fun x => ⟨.pollrx, 4, { l with q := x }⟩ :: fs) hFifo hp h rfl
    fun v hv => goto_bindTop_at hv 4 _
  obtain ⟨hChip, -⟩ := r.plain hIrq1 hIrq2
  have hBus := r.bus
  rw [readValue_rssi hc hPresent] at c hBus
  have hcu : u.cfg.wf = true := by rw [c.cfg]; exact hc
  obtain ⟨t, hLast, c', r'⟩ := turn_rdreg
    (pos := fun x => ⟨.pollrx, 5, { l with q := s.chip.rssiRaw, v := x }⟩ :: fs)
    (irq_ne_fifo hcu u.cfg.locCrc.reg) (by rw [PortReady, r.port]; exact hp) (c.turns h) rfl fun v hv => goto_bindTop_at hv 5 _
  have hCrc : bitOf (readValue (u.cfg.regIrq u.cfg.locCrc.reg) u) u.cfg.locCrc.bit = u.chip.crcOk := by
    rw [readValue_irq hcu (by rw [c.cfg]; exact hPresent)]
    exact statusView_crc _ _ rfl
  have hBus' := r'.bus
  rw [c.cfg, hChip] at hCrc
  rw [hBus, c.cfg] at hBus'
  exact ⟨t, _, _, (run_step hFirst).trans (run_one hLast), c.trans c',
    ⟨by rw [c.cfg]; exact hCrc, by rw [r'.chip, hChip], r'.latch.trans r.latch, r'.port.trans r.port,
      by rw [hBus', c.cfg, List.append_assoc]; rfl⟩⟩

/-- Settles O52: what the flag says, then the reads and the mode write. -/
theorem pollAnswersByTheFlag : Obligations.PollAnswersByTheFlag := by
  intro s fs hAlone
  have h := hostTurns_of_alone hAlone
  refine ⟨fun hFlag => ?_, fun hFlag hp hc hPresent hm => ?_⟩
  · obtain ⟨t, hRun, c, b⟩ := poll_negative h hFlag
    exact ⟨t, hRun, c.caller, b.chip, b.latch, b.pins, b.port, mode_congr_chip c.cfg b.chip, b.bus⟩
  · obtain ⟨u1, l, r1, hRun1, c1, w1⟩ := poll_consumes h hFlag
    have hCfg1 := c1.cfg
    obtain ⟨u2, v, r2, hRun2, c2, w2⟩ := poll_reads (c1.turns h) (by rw [PortReady, w1.port]; exact hp)
      (by rw [hCfg1]; exact hc) (by rw [hCfg1]; exact hPresent)
    have c2 := c1.trans c2
    have hCfg2 := c2.cfg
    have hPort2 : u2.port = s.port := by rw [w2.port, w1.port]
    have hRegs2 : u2.chip.regs = s.chip.regs := by rw [w2.chip, w1.chip]
    have hReg2 := State.reg_congr hRegs2
    obtain ⟨u3, hStep3, c3, w3⟩ := turn_setmode .standby (k := 6) (by rw [hCfg2]; exact hc) (by rw [hRegs2]; exact hm)
      (by rw [PortReady, hPort2]; exact hp) (c2.turns h) rfl
    have c3 := c2.trans c3
    obtain ⟨t, hStep4, c4, b4⟩ := turn_ret (c3.turns h) rfl
    have c4 := c3.trans c4
    have hCrc := w2.crc
    have hRssi : u1.chip.rssiRaw = s.chip.rssiRaw := by rw [w1.chip]
    have hReg4 := State.reg_congr (congrArg Chip.regs b4.chip)
    have hBus := w3.bus (by rw [hCfg2]; exact hPresent)
    rw [hCfg1, w1.chip] at hCrc
    rw [w2.bus, w1.bus, hCfg1, hCfg2, hReg2, hRssi] at hBus
    refine ⟨t, v, ?_, ?_, ?_, ?_, fun a ha => ?_, ?_, fun hf => ?_, fun hf => ?_, ?_⟩
    · exact (run_add core hRun1).trans ((run_add core hRun2).trans ((run_step hStep3).trans (run_one hStep4)))
    · rw [c4.caller, hRssi]
      simp only [State.inTurn_cfg, c3.cfg, hCrc]
    · rw [mode_congr_chip (c4.cfg.trans c3.cfg.symm) b4.chip, w3.mode]
    · rw [b4.port, w3.port, hPort2, State.mode?_congr hCfg2 hRegs2]
      simp
    · rw [hReg4, w3.others a (by rw [hCfg2]; exact ha), hReg2]
    · rw [b4.chip, w3.chip, w2.chip, w1.chip]
    · rw [b4.latch, w3.latch, w2.latch, w1.latchH hf]
    · rw [b4.latch, w3.latch, w2.latch, w1.latchS hf]
    · rw [b4.bus, hBus, hReg4]
      simp

/-! ## STARTRX -/

theorem toenOp_eq_exec (on : Bool) (s : State) : toenOp on s = exec (toenInstr on) s := by
  cases on <;> rfl

/-- A field outside `m0` is kept where the bits outside `m0` are. -/
theorem field_of_keptBits {x y m0 m1 : Byte} (h : x &&& ~~~ m0 = y &&& ~~~ m0) (hDisjoint : m0 &&& m1 = 0#8) :
    x &&& m1 = y &&& m1 := by
  have hSub : m1 &&& ~~~ m0 = m1 := by
    apply BitVec.eq_of_getLsbD_eq
    intro i hi
    have hBit := congrArg (fun b => b.getLsbD i) hDisjoint
    simp at hBit ⊢
    cases h0 : m0.getLsbD i <;> simp_all
  calc x &&& m1 = (x &&& ~~~ m0) &&& m1 := by rw [← hSub]; ac_rfl
    _ = (y &&& ~~~ m0) &&& m1 := by rw [h]
    _ = y &&& m1 := by rw [← hSub]; ac_rfl

/-- Mapping pin 0 keeps the PIN1 field: in another register, or, of a present chip, outside the mask. -/
theorem pin1Field_kept {s t : State} {e : Event} (hc : s.cfg.wf = true) (he : (mapField s.cfg e).1 = s.cfg.regPinmapA)
    (hMask : (mapField s.cfg e).2.1 = s.cfg.pin0Mask) (w : Mapped e s t)
    (h : s.cfg.present = true ∨ s.cfg.regPinmapA ≠ s.cfg.regPinmapB) :
    t.reg s.cfg.regPinmapB &&& s.cfg.pin1Mask = s.reg s.cfg.regPinmapB &&& s.cfg.pin1Mask := by
  by_cases hSame : s.cfg.regPinmapA = s.cfg.regPinmapB
  · have hKept := w.keptBits (h.resolve_right fun hne => hne hSame)
    rw [he, hMask, hSame] at hKept
    exact field_of_keptBits hKept ((cfgFacts hc).pinMasks hSame)
  · rw [w.others _ (by rw [he]; exact fun e => hSame e.symm)]

/-- A clear of one flag leaves another false where it was. -/
theorem flagView_clearFlag_false {s t : State} {e e' : Event} (hc : t.cfg = s.cfg) (h : t.latch = (clearFlag e s).latch)
    (hFalse : s.cfg.family = .s → s.latch.bits.get e' = false) : flagView t e' = false := by
  have hCfg : t.cfg = (clearFlag e s).cfg := by rw [hc, clearFlag_latchOnly]
  rw [flagView_congr hCfg h]
  cases hf : s.cfg.family
  · rw [clearFlag_familyH hf]
    exact flagView_clearShadows hf e'
  · rw [clearFlag_familyS hf, flagView_clearBit hf, flagView_familyS hf, hFalse hf, Bool.false_and]

/-- Settles O56: the five statements of STARTRX in turn. -/
theorem startrxArmsTheReceive : Obligations.StartrxArmsTheReceive := by
  intro s on fs hAlone hp hc hm
  have h := hostTurns_of_alone hAlone
  obtain ⟨u1, hStep1, c1, w1⟩ := turn_toen on (k := 1) hc hm hp h (congrArg (thenGoto 1) (toenOp_eq_exec on s.inTurn))
  have hCfg1 := c1.cfg
  have hc1 : u1.cfg.wf = true := by rw [hCfg1]; exact hc
  obtain ⟨u2, hStep2, c2, w2⟩ := turn_map .pr (k := 2) hc1 w1.regsWf (by rw [PortReady, w1.port]; exact hp) (c1.turns h) rfl
  have c2 := c1.trans c2
  obtain ⟨u3, hStep3, c3, w3, hLatch3⟩ := turn_clrf .pr (k := 3) (c2.turns h) rfl
  have c3 := c2.trans c3
  have hRegs3 : u3.chip.regs = u2.chip.regs := by rw [w3.chip]
  have hPort3 : u3.port = s.port := by rw [w3.port, w2.port, w1.port]
  obtain ⟨u4, hStep4, c4, w4⟩ := turn_setmode .receive (k := 4) (by rw [c3.cfg]; exact hc) (by rw [hRegs3]; exact w2.regsWf)
    (by rw [PortReady, hPort3]; exact hp) (c3.turns h) rfl
  have c4 := c3.trans c4
  obtain ⟨t, hStep5, c5, b5⟩ := turn_ret (c4.turns h) rfl
  have c5 := c4.trans c5
  obtain ⟨-, hAopmode, -⟩ := pinmap_ne hc (.inl rfl)
  obtain ⟨-, hBopmode, -⟩ := pinmap_ne hc (.inr rfl)
  have hReg (a : Addr) (ha : a ≠ s.cfg.regOpmode) : t.reg a = u2.reg a := by
    rw [State.reg_congr (congrArg Chip.regs b5.chip), w4.others a (by rw [c3.cfg]; exact ha), State.reg_congr hRegs3]
  have hReg2 (a : Addr) (ha : a ≠ s.cfg.regPinmapA) : u2.reg a = u1.reg a := w2.others a (by rw [hCfg1]; exact ha)
  have hField := w2.field
  rw [hCfg1] at hField
  have hOther (a : Addr) (ho : a ≠ s.cfg.regOpmode) (hA : a ≠ s.cfg.regPinmapA) (hB : a ≠ s.cfg.regPinmapB)
      (hH : s.cfg.family = .h → a ≠ s.cfg.regRxto1 ∧ a ≠ s.cfg.regRxto2) : t.reg a = s.reg a := by
    rw [hReg a ho, hReg2 a hA, w1.others a hB hH]
  have hMode3 : u3.mode? = s.mode? := by
    have hOpmode : u3.reg s.cfg.regOpmode = s.reg s.cfg.regOpmode := by
      rw [State.reg_congr hRegs3, hReg2 _ hAopmode.symm, w1.others _ hBopmode.symm fun hf =>
        ⟨(rxto_ne hc hf (.inl rfl)).2.1.symm, (rxto_ne hc hf (.inr rfl)).2.1.symm⟩]
    simp only [State.mode?, c3.cfg, hOpmode]
  refine ⟨t, ?_, ?_, ?_, fun hB => ?_, fun hf => ?_, hOther, ?_, ?_, ?_, ?_, ?_, c5.caller, c5.cfg⟩
  · exact (run_step hStep1).trans ((run_step hStep2).trans ((run_step hStep3).trans ((run_step hStep4).trans (run_one hStep5))))
  · rw [mode_congr_chip (c5.cfg.trans c4.cfg.symm) b5.chip, w4.mode]
  · rw [hReg _ hAopmode]
    exact hField
  · have hKept := pin1Field_kept hc1 rfl rfl w2 (by rw [hCfg1]; exact hB)
    rw [hCfg1] at hKept
    rw [hReg _ hBopmode, hKept, w1.field]
  · obtain ⟨-, h1opmode, -, -, -, -, -, h1A, -⟩ := rxto_ne hc hf (.inl rfl)
    obtain ⟨-, h2opmode, -, -, -, -, -, h2A, -⟩ := rxto_ne hc hf (.inr rfl)
    rw [hReg _ h1opmode, hReg _ h2opmode, hReg2 _ h1A, hReg2 _ h2A]
    exact w1.durations hf
  · exact flagView_cleared (s := u2) (c5.cfg.trans c2.cfg.symm) (by rw [b5.latch, w4.latch, hLatch3])
  · refine flagView_clearFlag_false (s := u2) (c5.cfg.trans c2.cfg.symm) (by rw [b5.latch, w4.latch, hLatch3]) fun hf => ?_
    rw [w2.latch, w1.latchS (by rw [← c2.cfg]; exact hf)]
    rfl
  · rw [b5.port, w4.port, hPort3, hMode3]
    simp
  · rw [b5.chip, w4.chip, w3.chip, w2.chip, w1.chip]
  · rw [b5.chip, w4.chip, w3.chip, w2.chip, w1.chip]

end Sys2Proof.Machine
end

section
/-! SUPPORT. READPL and TXPL (R218, R220, R229, R230, R232, R266). -/

namespace Sys2Proof.Machine

/-! ## READPL -/

/-- The FIFO is empty, and of the block nothing else than flags and pins changed. -/
abbrev Drained (s t : State) : Prop := Popped [] s t

theorem Popped.trans {q q' : List Byte} {s t u : State} (h : Popped q s t) (k : Popped q' t u) : Popped q' s u :=
  ⟨k.fifo, k.regs.trans h.regs, k.power.trans h.power, k.latch.trans h.latch, k.port.trans h.port⟩

theorem Popped.portReady {q : List Byte} {s t : State} (k : Popped q s t) (h : PortReady s) : PortReady t := by
  rw [PortReady, k.port]
  exact h

theorem Popped.of_kept {s t : State} (h : s.chip.fifo = []) (k : BlockKept s t) : Drained s t :=
  ⟨by rw [k.chip, h], by rw [k.chip], by rw [k.chip], k.latch, k.port⟩

theorem readpl_pops {cap : Nat} {l : Locals} (h : l.i < l.v.toNat - 1) (s : State) :
    stmt ⟨.readpl cap, 3, l⟩ s = onNext (fun t => bindTop (keepByte cap (resultByte t)) t) (exec (.fiford [0#8]) s) :=
  if_pos h

theorem readpl_returns {cap : Nat} {l : Locals} (h : ¬ l.i < l.v.toNat - 1) (s : State) :
    stmt ⟨.readpl cap, 3, l⟩ s = .next (ret (.count (min (l.v.toNat - 1) cap) l.buffer) s) :=
  if_neg h

/-- The loop pops what is left of the payload, and keeps what the capacity still holds. -/
theorem readpl_loop {cap : Nat} {fs : List Frame} (rest : List Byte) {s : State} {l : Locals}
    (h : HostTurns s (⟨.readpl cap, 3, l⟩ :: fs)) (hp : PortReady s) (hPresent : s.cfg.present = true)
    (hFifo : s.chip.fifo = rest) (hLen : l.i + rest.length = l.v.toNat - 1) :
    ∃ t : State,
      Host.Core.run core (rest.length + 1) s = .next t ∧
        CameTo s t fs
          (.count (min (l.v.toNat - 1) cap) (l.buffer ++ rest.take (min (l.v.toNat - 1) cap - l.i))) ∧
        Drained s t := by
  induction rest generalizing s l with
  | nil =>
    have hEnd : ¬ l.i < l.v.toNat - 1 := by simp only [List.length_nil] at hLen; omega
    obtain ⟨t, hStep, c, b⟩ := turn_ret h (readpl_returns hEnd s.inTurn)
    exact ⟨t, run_one hStep, by simpa using c, .of_kept hFifo b⟩
  | cons b rest ih =>
    have hMore : l.i < l.v.toNat - 1 := by simp only [List.length_cons] at hLen; omega
    obtain ⟨u, hStep, c, w⟩ := turn_fiford (pos := fun x => ⟨.readpl cap, 3, keepByte cap x l⟩ :: fs) hPresent hFifo hp h
      (readpl_pops hMore s.inTurn) fun v hv => bindTop_at hv _
    obtain ⟨t, hRun, c', w'⟩ := ih (c.turns h) (w.portReady hp) (by rw [c.cfg]; exact hPresent) w.fifo
      (by simp only [keepByte, List.length_cons] at hLen ⊢; omega)
    have hKept : (keepByte cap b l).buffer ++ rest.take (min (l.v.toNat - 1) cap - (l.i + 1)) =
        l.buffer ++ (b :: rest).take (min (l.v.toNat - 1) cap - l.i) := by
      by_cases hFits : l.i < min (l.v.toNat - 1) cap
      · obtain ⟨k, hk⟩ : ∃ k, min (l.v.toNat - 1) cap - l.i = k + 1 := ⟨min (l.v.toNat - 1) cap - l.i - 1, by omega⟩
        have hk' : min (l.v.toNat - 1) cap - (l.i + 1) = k := by omega
        simp [keepByte, hFits, hk, hk']
      · have hFull : min (l.v.toNat - 1) cap - l.i = 0 := by omega
        have hFull' : min (l.v.toNat - 1) cap - (l.i + 1) = 0 := by omega
        simp [keepByte, hFits, hFull, hFull']
    have c' := c.trans c'
    refine ⟨t, (run_step hStep).trans hRun, ?_, w.trans w'⟩
    rw [← hKept]
    exact c'

theorem take_min_length (l : List Byte) (n : Nat) : l.take (min l.length n) = l.take n := by
  rw [Nat.min_comm]
  exact List.take_eq_take_min.symm

/-- The length byte of an encoded frame. -/
theorem payloadLength {c : Cfg} (hc : c.wf = true) {payload : List Byte} (hLen : payload.length ≤ c.maxPayload) :
    c.payloadCount payload = payload.length ∧ (BitVec.ofNat 8 (payload.length + 1)).toNat = payload.length + 1 := by
  have hMax := (cfgFacts hc).payload
  refine ⟨Nat.min_eq_left hLen, ?_⟩
  rw [BitVec.toNat_ofNat]
  omega

/-- READPL of an encoded frame of a present, settled chip, wherever it was called from. -/
theorem readpl_runs {s : State} {cap : Nat} {fs : List Frame} {payload : List Byte} {dest : Byte}
    (h : HostTurns s (⟨.readpl cap, 0, .fresh⟩ :: fs)) (hp : PortReady s) (hc : s.cfg.wf = true)
    (hPresent : s.cfg.present = true) (hLen : payload.length ≤ s.cfg.maxPayload)
    (hFifo : s.chip.fifo = s.cfg.encodeFrame payload dest) :
    ∃ t : State,
      Host.Core.run core (payload.length + 4) s = .next t ∧
        CameTo s t fs (.count (min payload.length cap) (payload.take cap)) ∧ Drained s t := by
  obtain ⟨hCount, hByte⟩ := payloadLength hc hLen
  rw [Cfg.encodeFrame, hCount, List.take_length] at hFifo
  generalize hv : BitVec.ofNat 8 (payload.length + 1) = v at hFifo hByte
  obtain ⟨u1, hStep1, c1, w1⟩ := turn_fiford (pos := fun x => ⟨.readpl cap, 1, { Locals.fresh with v := x }⟩ :: fs) hPresent
    hFifo hp h rfl fun v hv => goto_bindTop_at hv 1 _
  have hNotZero : ¬ v = 0#8 := by
    rintro rfl
    simp at hByte
  obtain ⟨u2, hStep2, c2, b2⟩ := turn_goto (k := 2) (c1.turns h) (if_neg hNotZero)
  have c2 := c1.trans c2
  have hPort2 : u2.port = s.port := b2.port.trans w1.port
  obtain ⟨u3, hStep3, c3, w3⟩ := turn_fiford (pos := fun _ => ⟨.readpl cap, 3, { Locals.fresh with v := v }⟩ :: fs)
    (by rw [c2.cfg]; exact hPresent) (by rw [b2.chip]; exact w1.fifo) (by rw [PortReady, hPort2]; exact hp) (c2.turns h) rfl
    fun v hv => goto_at hv 3
  have c3 := c2.trans c3
  obtain ⟨t, hRun, c4, w4⟩ := readpl_loop payload (c3.turns h) (by rw [PortReady, w3.port, hPort2]; exact hp)
    (by rw [c3.cfg]; exact hPresent) w3.fifo (by simp [Locals.fresh, hByte])
  have c4 := c3.trans c4
  refine ⟨t, (run_step hStep1).trans ((run_step hStep2).trans ((run_step hStep3).trans hRun)), ?_, w4.fifo, ?_, ?_, ?_, ?_⟩
  · simpa [Locals.fresh, hByte, take_min_length] using c4
  · rw [w4.regs, w3.regs, b2.chip, w1.regs]
  · rw [w4.power, w3.power, b2.chip, w1.power]
  · rw [w4.latch, w3.latch, b2.latch, w1.latch]
  · rw [w4.port, w3.port, hPort2]

/-- Settles O57: the frame's three parts; a length byte 0 is raised before anything further is popped. -/
theorem readplReturnsTheEncodedPayload : Obligations.ReadplReturnsTheEncodedPayload := by
  intro s cap fs hAlone hp hc hPresent
  have h := hostTurns_of_alone hAlone
  refine ⟨fun payload dest hLen hFifo => ?_, fun q hFifo => ?_⟩
  · obtain ⟨t, hRun, c, w⟩ := readpl_runs h hp hc hPresent hLen hFifo
    exact ⟨t, hRun, c.caller, w.fifo, w.latch, w.port⟩
  · obtain ⟨u, hFirst, c, w⟩ := turn_fiford (pos := fun x => ⟨.readpl cap, 1, { Locals.fresh with v := x }⟩ :: fs) hPresent
      hFifo hp h rfl fun v hv => goto_bindTop_at hv 1 _
    have hLast : step u = .next (raise .host .malformedLength u.inTurn) := (c.turns h).step
    refine ⟨_, (run_step hFirst).trans (run_one hLast), ?_, mem_insertFault _ _, rfl, rfl, w.fifo, w.latch, w.port⟩
    exact congrArg (insertFault .malformedLength) c.faults

/-! ## TXPL -/

/-- Settles O58: the push, the transmit it arms, and what follows the wait. -/
theorem txplSendsTheTruncatedFrame : Obligations.TxplSendsTheTruncatedFrame := by
  intro s payload dest l fs hp hc
  have hMax := (cfgFacts hc).payload
  refine ⟨fun hAlone => ?_, fun hAlone hm => ?_, fun hAlone hm => ?_⟩
  · have h := hostTurns_of_alone hAlone
    obtain ⟨t, hStep, c, hChip, hLatch, hPins, hPort⟩ := turn_fifowr (k := 1) (bytes := s.cfg.encodeFrame payload dest) hp
      (by simp [Cfg.encodeFrame, Cfg.payloadCount]) h rfl
    rw [Cfg.encodeFrame, Cfg.payloadCount, hMax, take_min_length] at hChip
    exact ⟨t, hStep, hChip, c.hostPos, hLatch, hPins, hPort⟩
  · have h := hostTurns_of_alone hAlone
    obtain ⟨u1, hStep1, c1, w1⟩ := turn_map .ps (k := 2) hc hm hp h rfl
    obtain ⟨u2, hStep2, c2, w2, hLatch2⟩ := turn_clrf .ps (k := 3) (c1.turns h) rfl
    have c2' := c1.trans c2
    have hPort2 : u2.port = s.port := w2.port.trans w1.port
    obtain ⟨u3, hStep3, c3, w3⟩ := turn_setmode .transmit (k := 4) (by rw [c2'.cfg]; exact hc)
      (by rw [w2.chip]; exact w1.regsWf) (by rw [PortReady, hPort2]; exact hp) (c2'.turns h) rfl
    have c3 := c2'.trans c3
    obtain ⟨t, hStep4, c4, b4⟩ := turn_callThen (p := .waitf .ps []) (k := 5) (c3.turns h) rfl
    have c4' := c3.trans c4
    obtain ⟨-, hA, -⟩ := pinmap_ne hc (.inl rfl)
    refine ⟨t, ?_, ?_, ?_, ?_, ?_, c4'.hostPos⟩
    · exact (run_step hStep1).trans ((run_step hStep2).trans ((run_step hStep3).trans (run_one hStep4)))
    · rw [mode_congr_chip c4.cfg b4.chip, w3.mode]
    · rw [State.reg_congr (congrArg Chip.regs b4.chip), w3.others _ (by rw [c2'.cfg]; exact hA),
        State.reg_congr (congrArg Chip.regs w2.chip)]
      exact w1.field
    · exact flagView_cleared (s := u1) (c4'.cfg.trans c1.cfg.symm) (by rw [b4.latch, w3.latch, hLatch2])
    · rw [b4.chip, w3.chip, w2.chip, w1.chip]
  · have h := hostTurns_of_alone hAlone
    obtain ⟨u1, hStep1, c1, w1⟩ := turn_consume .ps (k := 6) h rfl
    obtain ⟨u2, hStep2, c2, w2⟩ := turn_setmode .standby (k := 7) (by rw [c1.cfg]; exact hc)
      (by rw [w1.chip]; exact hm) (by rw [PortReady, w1.port]; exact hp) (c1.turns h) rfl
    have c2 := c1.trans c2
    obtain ⟨t, hStep3, c3, b3⟩ := turn_ret (c2.turns h) rfl
    have c3' := c2.trans c3
    have hCount : u2.inTurn.cfg.payloadCount payload = min payload.length 63 := by
      rw [State.inTurn_cfg, c2.cfg, Cfg.payloadCount, hMax]
    rw [hCount] at c3'
    refine ⟨t, ?_, ?_, c3'.caller, fun hf => ?_, fun hf => ?_⟩
    · exact (run_step hStep1).trans ((run_step hStep2).trans (run_one hStep3))
    · rw [mode_congr_chip c3.cfg b3.chip, w2.mode]
    · rw [b3.latch, w2.latch, w1.latchH hf]
    · rw [b3.latch, w2.latch, w1.latchS hf]

end Sys2Proof.Machine
end

section
/-! SUPPORT. RXPL (R196, R200, R219). -/

namespace Sys2Proof.Machine

/-- What RXPL leaves on its way out of Receive: Standby, Timeout mapped, unarmed and false. -/
structure Disarmed (s t : State) : Prop where
  mode : t.mode? = some .standby
  flag : flagView t .tmo = false
  durations : s.cfg.family = .h → t.reg s.cfg.regRxto1 = 0x00#8 ∧ t.reg s.cfg.regRxto2 = 0x00#8
  power : t.chip.outputPower = s.chip.outputPower

/-- The three statements of both outcomes: the consumption clear, SETMODE Standby and TOEN off. -/
theorem rxpl_disarms {s : State} {cap : Nat} {on : Bool} {l : Locals} {fs : List Frame}
    (h : HostTurns s (⟨.rxpl cap on, 3, l⟩ :: fs)) (hc : s.cfg.wf = true) (hp : PortReady s)
    (hm : Memory.wf s.chip.regs = true) (hAwake : s.mode? ≠ some .sleep) :
    ∃ (t : State) (r : Result),
      Host.Core.run core 3 s = .next t ∧
        CameTo s t (⟨.rxpl cap on, if l.tmo then 6 else 9, l⟩ :: fs) r ∧ Disarmed s t ∧
        t.chip.fifo = s.chip.fifo ∧ t.port = s.port := by
  obtain ⟨u1, hStep1, c1, w1⟩ := turn_consume .pr (k := 4) h rfl
  obtain ⟨u2, hStep2, c2, w2⟩ := turn_setmode .standby (k := 5) (by rw [c1.cfg]; exact hc) (by rw [w1.chip]; exact hm)
    (by rw [PortReady, w1.port]; exact hp) (c1.turns h) rfl
  have c2 := c1.trans c2
  have hPort2 : u2.port = s.port := by
    rw [w2.port, w1.port, mode_congr_chip c1.cfg w1.chip, decide_eq_false fun e => hAwake e.1]
    exact settled_port hp.2
  obtain ⟨t, hStep3, c3, w3⟩ := turn_toen false (k := if l.tmo then 6 else 9) (by rw [c2.cfg]; exact hc) w2.regsWf
    (by rw [PortReady, hPort2]; exact hp) (c2.turns h) rfl
  have c3' := c2.trans c3
  have hOpmode : t.reg u2.cfg.regOpmode = u2.reg u2.cfg.regOpmode := by
    have hc2 : u2.cfg.wf = true := by rw [c2.cfg]; exact hc
    exact w3.others _ (pinmap_ne hc2 (.inr rfl)).2.1.symm fun hf =>
      ⟨(rxto_ne hc2 hf (.inl rfl)).2.1.symm, (rxto_ne hc2 hf (.inr rfl)).2.1.symm⟩
  refine ⟨t, _, (run_step hStep1).trans ((run_step hStep2).trans (run_one hStep3)), c3', ⟨?_, ?_, fun hf => ?_, ?_⟩, ?_,
    w3.port.trans hPort2⟩
  · rw [State.mode?, c3.cfg, hOpmode]
    exact w2.mode
  · cases hf : s.cfg.family
    · have hLatch : t.latch = { s.latch with shadow1 := 0x00#8, shadow2 := 0x00#8 } := by
        rw [w3.latchH (by rw [c2.cfg]; exact hf), w2.latch, w1.latchH hf]
      exact flagView_shadowsZero (by rw [c3'.cfg]; exact hf) (by rw [hLatch]) (by rw [hLatch]) .tmo
    · rw [flagView_familyS (by rw [c3'.cfg]; exact hf), w3.latchS (by rw [c2.cfg]; exact hf)]
      rfl
  · have hDurations := w3.durations (by rw [c2.cfg]; exact hf)
    rw [c2.cfg] at hDurations
    exact hDurations
  · rw [w3.chip, w2.chip, w1.chip]
  · rw [w3.chip, w2.chip, w1.chip]

/-- The FIFO of a timeout outcome is drawn, and nothing else of chip or latch changes. -/
theorem turn_fifoDrawn {s : State} {cap : Nat} {on : Bool} {l : Locals} {fs : List Frame}
    (h : HostTurns s (⟨.rxpl cap on, 7, l⟩ :: fs)) :
    ∃ t : State,
      step s = .next t ∧ CameTo s t (⟨.rxpl cap on, 8, l⟩ :: fs) s.caller.result ∧
        t.chip = { s.chip with fifo := t.chip.fifo } ∧ t.latch = s.latch := by
  have hStep : step s = .next (goto 8 _) := h.step
  rw [goto_at (by exact h.position)] at hStep
  exact ⟨_, hStep, ⟨rfl, rfl, rfl, rfl⟩, rfl, rfl⟩

/-- The rest of the timeout outcome: the fallback power, the drawn FIFO, and 0. -/
theorem rxpl_timesOut {s : State} {cap : Nat} {on : Bool} {l : Locals} {fs : List Frame}
    (h : HostTurns s (⟨.rxpl cap on, 6, l⟩ :: fs)) (hp : PortReady s) :
    ∃ t : State,
      Host.Core.run core 3 s = .next t ∧ CameTo s t fs (.count 0 []) ∧ t.chip.regs = s.chip.regs ∧ t.latch = s.latch ∧
        t.chip.outputPower = s.cfg.pFallback := by
  obtain ⟨u1, hStep1, c1, w1⟩ := turn_power (k := 7) hp h (congrArg (thenGoto 7) (exec_pwrfull_host h.hostMay))
  obtain ⟨u2, hStep2, c2, hChip2, hLatch2⟩ := turn_fifoDrawn (c1.turns h)
  have c2 := c1.trans c2
  obtain ⟨t, hStep3, c3, b3⟩ := turn_ret (c2.turns h) rfl
  refine ⟨t, (run_step hStep1).trans ((run_step hStep2).trans (run_one hStep3)), c2.trans c3, ?_, ?_, ?_⟩
  · rw [b3.chip, hChip2, w1.chip]
  · rw [b3.latch, hLatch2, w1.latch]
  · rw [b3.chip, hChip2, w1.chip]
    rfl

/-- The rest of the payload outcome: READPL, whose result is returned. -/
theorem rxpl_reads {s : State} {cap : Nat} {on : Bool} {l : Locals} {fs : List Frame} {payload : List Byte} {dest : Byte}
    (h : HostTurns s (⟨.rxpl cap on, 9, l⟩ :: fs)) (hp : PortReady s) (hc : s.cfg.wf = true)
    (hPresent : s.cfg.present = true) (hLen : payload.length ≤ s.cfg.maxPayload)
    (hFifo : s.chip.fifo = s.cfg.encodeFrame payload dest) :
    ∃ t : State,
      Host.Core.run core (payload.length + 6) s = .next t ∧
        CameTo s t fs (.count (min payload.length cap) (payload.take cap)) ∧ Drained s t := by
  obtain ⟨u1, hStep1, c1, b1⟩ := turn_callThen (p := .readpl cap) (k := 10) h rfl
  have hCfg1 := c1.cfg
  obtain ⟨u2, hRun2, c2, w2⟩ := readpl_runs (c1.turns h) (b1.portReady hp) (by rw [hCfg1]; exact hc)
    (by rw [hCfg1]; exact hPresent) (by rw [hCfg1]; exact hLen) (by rw [b1.chip, hCfg1]; exact hFifo)
  have c2 := c1.trans c2
  obtain ⟨t, hStep3, c3, b3⟩ := turn_ret (c2.turns h) rfl
  have c3 := c2.trans c3
  rw [State.inTurn_caller, c2.result] at c3
  refine ⟨t, (run_step hStep1).trans ((run_add core hRun2).trans (run_one hStep3)), c3, ?_⟩
  exact Popped.trans (⟨rfl, by rw [b1.chip], by rw [b1.chip], b1.latch, b1.port⟩ : Popped u1.chip.fifo s u1)
    (w2.trans (.of_kept w2.fifo b3))

/-- Settles O59: the first three statements one by one, then either outcome after the statements they share. -/
theorem receiveOutcomesReturnToStandby : Obligations.ReceiveOutcomesReturnToStandby := by
  intro s cap on l fs hc
  refine ⟨fun hAlone => ?_, fun hAlone => ?_, fun pr tmo hAlone hResult => ?_, fun hAlone hp hm hAwake =>
    ⟨fun hTmo => ?_, fun payload dest hTmo hPresent hLen hFifo => ?_⟩⟩
  · obtain ⟨t, hStep, c, b⟩ := turn_callThen (p := .startrx on) (k := 1) (hostTurns_of_alone hAlone) rfl
    exact ⟨t, hStep, b.chip, b.latch, c.hostPos⟩
  · obtain ⟨t, hStep, c, b⟩ := turn_callThen (p := .waitf .pr [.tmo]) (k := 2) (hostTurns_of_alone hAlone) rfl
    exact ⟨t, hStep, b.chip, b.latch, c.hostPos⟩
  · obtain ⟨t, hStep, c, b⟩ := turn_bind (k := 3) (hostTurns_of_alone hAlone) rfl
    refine ⟨t, hStep, b.chip, b.latch, c.hostPos.trans ?_⟩
    simp [resultFlags, hResult]
  · obtain ⟨u, r, hRun, c, w, -, hPort⟩ := rxpl_disarms (hostTurns_of_alone hAlone) hc hp hm hAwake
    rw [hTmo, if_pos rfl] at c
    obtain ⟨t, hRun', c', hRegs, hLatch, hPower⟩ := rxpl_timesOut (c.turns (hostTurns_of_alone hAlone))
      (by rw [PortReady, hPort]; exact hp)
    have hReg := State.reg_congr hRegs
    refine ⟨t, (run_add core hRun).trans hRun', (State.mode?_congr c'.cfg hRegs).trans w.mode, ?_,
      (flagView_congr c'.cfg hLatch _).trans w.flag, fun hf => ?_, c'.result, c'.hostPos⟩
    · rw [hPower, c.cfg]
    · rw [hReg, hReg]
      exact w.durations hf
  · obtain ⟨u, r, hRun, c, w, hFifo', hPort⟩ := rxpl_disarms (hostTurns_of_alone hAlone) hc hp hm hAwake
    rw [hTmo, if_neg (by simp)] at c
    have hCfg := c.cfg
    obtain ⟨t, hRun', c', w'⟩ := rxpl_reads (c.turns (hostTurns_of_alone hAlone)) (by rw [PortReady, hPort]; exact hp)
      (by rw [hCfg]; exact hc) (by rw [hCfg]; exact hPresent) (by rw [hCfg]; exact hLen) (by rw [hFifo', hCfg]; exact hFifo)
    have hReg := State.reg_congr w'.regs
    refine ⟨t, ?_, (State.mode?_congr c'.cfg w'.regs).trans w.mode, w'.power.trans w.power,
      (flagView_congr c'.cfg w'.latch _).trans w.flag, fun hf => ?_, w'.fifo, c'.result, c'.hostPos⟩
    · rw [show payload.length + 9 = 3 + (payload.length + 6) by omega]
      exact (run_add core hRun).trans hRun'
    · rw [hReg, hReg]
      exact w.durations hf

end Sys2Proof.Machine
end

section
/-! SUPPORT. INIT (R212, R262). -/

namespace Sys2Proof.Machine

/-- `s` with an earlier failed INIT forgotten. -/
def State.retrying (s : State) : State := { s with caller := { s.caller with initFailed := false } }

/-- What INIT leaves up to its identification test: the reset state, settled, with latch and configuration as before. -/
structure PoweredUp (s t : State) : Prop where
  mode : t.mode? = some s.cfg.resetMode
  latch : t.latch = s.latch
  port : PortReady t

/-- The first statement, PWRON, which runs whatever an earlier INIT did. -/
theorem turn_pwron {s : State} {f : Nat} {n b : Byte} {fs : List Frame} (hInput : s.env.input = [])
    (hPos : s.caller.hostPos = ⟨.init f n b, 0, .fresh⟩ :: fs) (hRun : hostMayAct s = true) :
    ∃ t : State,
      step s = .next t ∧ CameTo s.retrying t (⟨.init f n b, 1, .fresh⟩ :: fs) s.caller.result ∧
        t.chip = (powerOn s.retrying.inTurn).chip ∧ t.latch = s.latch ∧ t.port.busSelected = false := by
  have hStep : step s = thenGoto 1 (execPwron s.retrying.inTurn) := step_eq_stmt (.inl hInput) hPos hRun
  have hExec : execPwron s.retrying.inTurn = .next (powerOn s.retrying.inTurn) := admit_host ⟨rfl, rfl⟩ [.host] (by simp)
  rw [hExec, thenGoto, onNext, goto_at (by rw [powerOn_caller]; exact hPos)] at hStep
  have hIsr : s.pins.inIsr = false := by
    simp only [hostMayAct, Bool.and_eq_true, Bool.not_eq_true'] at hRun
    exact hRun.2
  refine ⟨_, hStep, ⟨powerOn_cfg _, ?_, ?_, hIsr.symm⟩, rfl, powerOn_latch _, rfl⟩
  · simp [State.at, State.retrying]
  · simp [State.at, powerOn_env, State.retrying]

/-- The first three statements: PWRON, DELAY and the read of the identification register. -/
theorem init_powersUp {s : State} {f : Nat} {n b : Byte} {fs : List Frame} (hInput : s.env.input = [])
    (hPos : s.caller.hostPos = ⟨.init f n b, 0, .fresh⟩ :: fs) (hRun : hostMayAct s = true) (hc : s.cfg.wf = true)
    (hm : Memory.wf s.chip.regs = true) :
    ∃ (t : State) (r : Result),
      Host.Core.run core 3 s = .next t ∧ HostTurns t (⟨.init f n b, 3, { Locals.fresh with v := s.cfg.versionValue }⟩ :: fs) ∧
        CameTo s.retrying t (⟨.init f n b, 3, { Locals.fresh with v := s.cfg.versionValue }⟩ :: fs) r ∧ PoweredUp s t := by
  obtain ⟨u1, hStep1, c1, hChip1, hLatch1, hClosed1⟩ := turn_pwron hInput hPos hRun
  have h0 : HostTurns s.retrying (⟨.init f n b, 0, .fresh⟩ :: fs) := ⟨.inl hInput, hPos, hRun, rfl⟩
  obtain ⟨u2, hStep2, c2, hChip2, hLatch2, hPort2⟩ := turn_delay (k := 2) (c1.turns h0) rfl
  have c2 := c1.trans c2
  have hCfg2 : u2.cfg = s.cfg := c2.cfg
  have hReady2 : PortReady u2 := by
    rw [PortReady, hPort2]
    exact ⟨hClosed1, rfl⟩
  have hc2 : u2.cfg.wf = true := by rw [hCfg2]; exact hc
  obtain ⟨hFifo, hIrq1, hIrq2⟩ := version_ne hc2
  obtain ⟨t, hStep3, c3, w3⟩ := turn_rdreg (pos := fun x => ⟨.init f n b, 3, { Locals.fresh with v := x }⟩ :: fs) hFifo hReady2
    (c2.turns h0) rfl fun v hv => goto_bindTop_at hv 3 _
  rw [readValue_version hc2, hCfg2] at c3
  have c3' := c2.trans c3
  obtain ⟨hChip3, -⟩ := w3.plain hIrq1 hIrq2
  have hRegs : t.chip.regs = (powerOn s.retrying.inTurn).chip.regs := by rw [hChip3, hChip2, hChip1]
  refine ⟨t, _, (run_step hStep1).trans ((run_step hStep2).trans (run_one hStep3)), c3'.turns h0, c3', ⟨?_, ?_, ?_⟩⟩
  · rw [State.mode?_congr (c3'.cfg.trans (powerOn_cfg s.retrying.inTurn).symm) hRegs]
    exact powerOn_mode (s := s.retrying.inTurn) hc hm
  · rw [w3.latch, hLatch2, hLatch1]
  · rw [PortReady, w3.port]
    exact hReady2

/-- Of an absent chip the fourth statement returns false and remembers it. -/
theorem init_fails {s : State} {f : Nat} {n b : Byte} {l : Locals} {fs : List Frame}
    (h : HostTurns s (⟨.init f n b, 3, l⟩ :: fs)) (hAbsent : l.v = s.cfg.versionInvalid) :
    ∃ t : State,
      step s = .next t ∧ t.caller = { s.caller with hostPos := fs, result := .success false, initFailed := true } ∧
        t.latch = s.latch := by
  have hStep := h.step.trans (if_pos hAbsent)
  exact ⟨_, hStep, by simp [ret, h.position], rfl⟩

/-- The power default of INIT, which is no register write of the block (R212). -/
theorem turn_powerDefault {s : State} {f : Nat} {n b : Byte} {l : Locals} {fs : List Frame}
    (h : HostTurns s (⟨.init f n b, 5, l⟩ :: fs)) :
    ∃ t : State,
      step s = .next t ∧ CameTo s t (⟨.init f n b, 6, l⟩ :: fs) s.caller.result ∧ PowerSet s.cfg.pFallback s t := by
  have hStep : step s = .next (goto 6 _) := h.step
  rw [goto_at (by exact h.position)] at hStep
  exact ⟨_, hStep, ⟨rfl, rfl, rfl, rfl⟩, ⟨rfl, rfl, rfl, rfl⟩⟩

/-- Of a present chip the next three statements set the power default. -/
theorem init_setsPower {s : State} {f : Nat} {n b : Byte} {l : Locals} {fs : List Frame}
    (h : HostTurns s (⟨.init f n b, 3, l⟩ :: fs)) (hPresent : l.v ≠ s.cfg.versionInvalid) :
    ∃ (t : State) (r : Result),
      Host.Core.run core 3 s = .next t ∧ CameTo s t (⟨.init f n b, 6, l⟩ :: fs) r ∧ PowerSet s.cfg.pFallback s t := by
  obtain ⟨u1, hStep1, c1, b1⟩ := turn_goto (k := 4) h (if_neg hPresent)
  obtain ⟨u2, hStep2, c2, b2⟩ := turn_goto (k := 5) (c1.turns h) rfl
  have c2 := c1.trans c2
  obtain ⟨t, hStep3, c3, w⟩ := turn_powerDefault (c2.turns h)
  refine ⟨t, _, (run_step hStep1).trans ((run_step hStep2).trans (run_one hStep3)), c2.trans c3, ⟨?_, ?_, ?_, ?_⟩⟩
  · rw [w.chip, b2.chip, b1.chip, c2.cfg]
  · rw [w.latch, b2.latch, b1.latch]
  · rw [w.pins, b2.pins, b1.pins]
  · rw [w.port, b2.port, b1.port]

/-- The statements that clear the latch: one under family H, three under family S. -/
def clearSteps : Family → Nat
  | .h => 1
  | .s => 3

theorem stmtInit_clear {s : State} (hf : s.cfg.family = .h) (f : Nat) (n b : Byte) (l : Locals) :
    stmt ⟨.init f n b, 6, l⟩ s = thenGoto 9 (execClear s) := by
  simp only [stmt, stmtInit, hf]

theorem stmtInit_clrpr {s : State} (hf : s.cfg.family = .s) (f : Nat) (n b : Byte) (l : Locals) :
    stmt ⟨.init f n b, 6, l⟩ s = thenGoto 7 (execClrpr s) := by
  simp only [stmt, stmtInit, hf]

/-- CLRPR, CLRPS or CLRTO as a statement under family S. -/
theorem turn_clr {s : State} {f : Frame} {fs : List Frame} {k : Nat} (e : Event) (hf : s.cfg.family = .s)
    (h : HostTurns s (f :: fs)) (hStmt : stmt f s.inTurn = thenGoto k (exec (clrInstr e) s.inTurn)) :
    ∃ t : State,
      step s = .next t ∧ CameTo s t (⟨f.op, k, f.locals⟩ :: fs) s.caller.result ∧ ChipKept s t ∧
        t.latch = { s.latch with bits := s.latch.bits.set e false } :=
  turn_latch h hStmt ((exec_clrInstr_host h.hostMay e).trans (ofFamily_same hf _))

/-- INIT clears every flag, by CLEAR or by the three clears of family S. -/
theorem init_clears {s : State} {f : Nat} {n b : Byte} {l : Locals} {fs : List Frame}
    (h : HostTurns s (⟨.init f n b, 6, l⟩ :: fs)) :
    ∃ (t : State) (r : Result),
      Host.Core.run core (clearSteps s.cfg.family) s = .next t ∧ CameTo s t (⟨.init f n b, 9, l⟩ :: fs) r ∧
        ChipKept s t ∧ ∀ e, flagView t e = false := by
  cases hf : s.cfg.family
  · have hClear : exec .clear s.inTurn = .next (clearShadows s.inTurn) :=
      (exec_clear_host h.hostMay).trans (ofFamily_same hf _)
    obtain ⟨t, hStep, c, w, hLatch⟩ := turn_latch (k := 9) h (stmtInit_clear (s := s.inTurn) hf f n b l) hClear
    exact ⟨t, _, run_one hStep, c, w,
      flagView_shadowsZero (by rw [c.cfg]; exact hf) (by rw [hLatch]) (by rw [hLatch])⟩
  · obtain ⟨u1, hStep1, c1, w1, hLatch1⟩ := turn_clr .pr (k := 7) hf h (stmtInit_clrpr (s := s.inTurn) hf f n b l)
    obtain ⟨u2, hStep2, c2, w2, hLatch2⟩ := turn_clr .ps (k := 8) (by rw [c1.cfg]; exact hf) (c1.turns h) rfl
    have c2 := c1.trans c2
    obtain ⟨t, hStep3, c3, w3, hLatch3⟩ := turn_clr .tmo (k := 9) (by rw [c2.cfg]; exact hf) (c2.turns h) rfl
    have c3 := c2.trans c3
    refine ⟨t, _, (run_step hStep1).trans ((run_step hStep2).trans (run_one hStep3)), c3, ⟨?_, ?_, ?_, ?_⟩, fun e => ?_⟩
    · rw [w3.chip, w2.chip, w1.chip]
    · rw [w3.pins, w2.pins, w1.pins]
    · rw [w3.port, w2.port, w1.port]
    · rw [w3.bus, w2.bus, w1.bus]
    · rw [flagView_familyS (by rw [c3.cfg]; exact hf), hLatch3, hLatch2, hLatch1]
      cases e <;> rfl

/-- The last statements of INIT of a present chip, from the clear on. -/
theorem init_succeeds {s : State} {f : Nat} {n b : Byte} {l : Locals} {fs : List Frame}
    (h : HostTurns s (⟨.init f n b, 6, l⟩ :: fs)) :
    ∃ t : State,
      Host.Core.run core (clearSteps s.cfg.family + 1) s = .next t ∧ CameTo s t fs (.success true) ∧ t.chip = s.chip ∧
        t.port = s.port ∧ ∀ e, flagView t e = false := by
  obtain ⟨u, r, hRun, c, w, hFlags⟩ := init_clears h
  obtain ⟨t, hStep, c', b'⟩ := turn_ret (c.turns h) rfl
  exact ⟨t, (run_add core hRun).trans (run_one hStep), c.trans c', b'.chip.trans w.chip, b'.port.trans w.port,
    fun e => (flagView_congr c'.cfg b'.latch e).trans (hFlags e)⟩

/-- Settles O60: the identification byte decides between the failure at the fourth statement and the rest of the
bring-up. -/
theorem initBringsTheChipUpOrFails : Obligations.InitBringsTheChipUpOrFails := by
  intro s f n b fs hInput hPos hRun hc hm
  obtain ⟨u, r, hUp, h, c, w⟩ := init_powersUp hInput hPos hRun hc hm
  have hCfg : u.cfg = s.cfg := c.cfg
  refine ⟨fun hPresent => ?_, fun hAbsent => ?_⟩
  · obtain ⟨u2, r2, hPower, c2, w2⟩ := init_setsPower h (by rw [hCfg]; exact hPresent)
    have hCfg2 : u2.cfg = s.cfg := c2.cfg.trans hCfg
    obtain ⟨t, hLast, c3, hChip, hPort, hFlags⟩ := init_succeeds (c2.turns h)
    have c3 := (c.trans c2).trans c3
    have hSteps : Host.Core.run core (3 + (3 + (clearSteps s.cfg.family + 1))) s = .next t := by
      rw [← hCfg2]
      exact (run_add core hUp).trans ((run_add core hPower).trans hLast)
    have hRegs : t.chip.regs = u.chip.regs := by rw [hChip, w2.chip]
    refine ⟨t, ?_, c3.caller, ?_, ?_, ?_, hFlags⟩
    · cases hf : s.cfg.family <;> simpa [hf, clearSteps] using hSteps
    · rw [State.mode?_congr (c3.cfg.trans c.cfg.symm) hRegs, w.mode]
    · rw [hPort, w2.port, w.port.2]
    · rw [hChip, w2.chip, hCfg]
  · obtain ⟨t, hStep, hCaller, hLatch⟩ := init_fails h (by rw [hCfg]; exact hAbsent)
    refine ⟨t, (run_add core hUp).trans (run_one hStep), ?_, hLatch.trans w.latch⟩
    rw [hCaller, c.caller]
    rfl

end Sys2Proof.Machine
end
